-- ==== Sys2Proof/Word.lean ====
section
/-! DEFINITION. The word types of the GW7316 and tables of a fixed length. Common memory is read and written as 16-bit words of two bytes (0.2, R171); a zone mask is given bit by bit (0.3). -/

namespace Sys2Proof

/-- One byte of common memory or of the EEPROM. -/
abbrev Byte := BitVec 8

/-- One 16-bit word of the host bus (R171). -/
abbrev Word := BitVec 16

/-- A set of zones, bit z for zone z (0.3, "zone mask"). -/
abbrev ZoneSet := BitVec 64

/-- A set of buildings, bit b for building b (12.1, "building mask"). -/
abbrev BuildingSet := BitVec 6

/-- Zone 0..63. -/
abbrev ZoneId := Fin 64
/-- Building 0..5. -/
abbrev BuildingId := Fin 6
/-- Session record 0..15 (R69). -/
abbrev SessId := Fin 16
/-- Tone generator 0..3. -/
abbrev GenId := Fin 4
/-- Message player 0 or 1. -/
abbrev PlayerId := Fin 2
/-- Paging console 0 or 1. -/
abbrev ConsoleId := Fin 2
/-- Clock line 0..7. -/
abbrev LineId := Fin 8
/-- Supervision channel 0..23. -/
abbrev ChannelId := Fin 24
/-- Request cell 0..23. -/
abbrev CellId := Fin 24
/-- Schedule group 0..7. -/
abbrev SchedId := Fin 8
/-- Program 0..47. -/
abbrev ProgId := Fin 48
/-- Zone group 0..127. -/
abbrev ZoneGroupId := Fin 128
/-- Tone pattern 0..7. -/
abbrev PatternId := Fin 8
/-- Drill profile 0..7. -/
abbrev ProfileId := Fin 8

/-- A table of `n` records, numbered from 0. -/
abbrev Tab (α : Type) (n : Nat) := Vector α n

/-- Record `i` of a table. -/
def Tab.at {α : Type} {n : Nat} (v : Tab α n) (i : Fin n) : α := v[i.val]

/-- A table with record `i` replaced. -/
def Tab.put {α : Type} {n : Nat} (v : Tab α n) (i : Fin n) (x : α) : Tab α n := v.set i.val x i.isLt

/-- A table whose every record is `x`. -/
def Tab.all {α : Type} (n : Nat) (x : α) : Tab α n := Vector.replicate n x

/-- The table whose record `i` is `f i`. -/
def Tab.tabulate {α : Type} (n : Nat) (f : Fin n → α) : Tab α n :=
  ⟨((List.finRange n).map f).toArray, by simp⟩

/-- Member test of a mask: bit `i` is set. -/
def Mask.has {n : Nat} (m : BitVec n) (i : Nat) : Bool := m.getLsbD i

/-- The mask of one member. -/
def Mask.one (n : Nat) (i : Nat) : BitVec n := BitVec.ofNat n (2 ^ i)

/-- A mask with one member added. -/
def Mask.add {n : Nat} (m : BitVec n) (i : Nat) : BitVec n := m ||| Mask.one n i

/-- A mask with one member removed. -/
def Mask.del {n : Nat} (m : BitVec n) (i : Nat) : BitVec n := m &&& ~~~(Mask.one n i)

/-- The members of a mask, in ascending order. -/
def Mask.members {n : Nat} (m : BitVec n) : List (Fin n) :=
  (List.finRange n).filter (fun i => m.getLsbD i.val)

/-- How many members a mask has. -/
def Mask.count {n : Nat} (m : BitVec n) : Nat := (Mask.members m).length

end Sys2Proof
end

