-- ==== Sys2Proof/Syntax.lean ====
section
/-! DEFINITION. The commands of the GW7316: one constructor for each row of spec/opcode_table.json, with the operands the row's rule gives it. -/

namespace Sys2Proof

/-- The levels of the input pins, as they stand at an eighth boundary or at a start (0.2, 12.8).
`storeAnswers` bit 0: the EEPROM answers the reads of its magic word and directory; bit k, 1..7: it
answers the read of the section of kind k (R166). -/
structure Pins where
  contacts     : BuildingSet
  musters      : BuildingSet
  ptt          : BitVec 2
  emergency    : BitVec 2
  playing      : BitVec 2
  batteryLow   : Bool
  storeAnswers : BitVec 8
  deriving DecidableEq, Repr

/-- A host write of one word of common memory, at word address 0x0000..0x1FFF (R171, 12.2). -/
structure MemWrite where
  word  : BitVec 13
  value : Word
  deriving DecidableEq, Repr

/-- The writes of SWEEP that fall into one sweep, at least one: for each the host's writes to common memory that
land before it (R172). -/
structure SweepAsks where
  first : List MemWrite
  more  : List (List MemWrite)
  deriving DecidableEq, Repr

/-- What reaches the part at an eighth boundary: the pin levels, the host's writes to common memory that
land before the boundary's sweep, and the writes of SWEEP that fall into that sweep and into the further ones
they ask for, sweep by sweep (R172). Where the spec lets two things of one boundary come in either order,
`batteryFirst` (R159), `selectFirst` (R151) and `secondFirst` (R2) say which: with `selectFirst` the scan looks for the
converter only when the instant of the boundary is left, after the select requests of that instant; with `secondFirst`
the standard second boundary that falls at this instant is taken before the boundary's work, so that a change of power
stands at eighth 0 of the new second. -/
structure BoundaryInput where
  pins         : Pins
  host         : List MemWrite
  asks         : List SweepAsks
  batteryFirst : Bool
  selectFirst  : Bool
  secondFirst  : Bool
  deriving DecidableEq, Repr

/-- A telegram character as received: 8 data bits, the parity bit and the stop bit (1.6). -/
structure RxChar where
  data   : Byte
  parity : Bool
  stop   : Bool
  deriving DecidableEq, Repr

/-- A target as a request gives it (R56): the target kind, the group and the mask. -/
structure TargetParam where
  kind  : Byte
  group : Byte
  mask  : ZoneSet
  deriving DecidableEq, Repr

/-- What the EEPROM does with one page write (R169): it takes it; it does not acknowledge within 10 ms; or
it reads back the given bytes. -/
inductive PageResult where
  | ok
  | noAck
  | readsBack (bytes : List Byte)
  deriving DecidableEq, Repr

/-- The commands. A host request carries its cell, its tag and the parameters of 12.3. -/
inductive Instr where
  /-- EIGHTH_END (R1). -/
  | eighthEnd (inp : BoundaryInput)
  /-- STANDARD_SECOND_BOUNDARY (R2). -/
  | standardSecondBoundary
  /-- LOCKED_PERIOD_END (R4). -/
  | lockedPeriodEnd
  /-- HOLDOVER_PERIOD_END (R4). -/
  | holdoverPeriodEnd
  /-- TELEGRAM_CHARACTER (R8). `waits`: the part is in start step 2 and cannot examine the character yet. -/
  | telegramCharacter (ch : RxChar) (waits : Bool)
  /-- TELEGRAM_TIMEOUT (R9). -/
  | telegramTimeout
  /-- TIME_SET (R14). -/
  | timeSet (cell : CellId) (tag year : Word) (month day hour minute second force : Byte)
  /-- DAY_OVERRIDE_SET (R27). -/
  | dayOverrideSet (cell : CellId) (tag year : Word) (month day dayType : Byte)
  /-- DAY_OVERRIDE_CLEAR (R28). -/
  | dayOverrideClear (cell : CellId) (tag year : Word) (month day : Byte)
  /-- ADMISSION_SET (R61). -/
  | admissionSet (cell : CellId) (tag : Word) (target : TargetParam) (action : Byte) (minutes : Word)
  /-- ADMISSION_RELEASE (R62). -/
  | admissionRelease (cell : CellId) (tag : Word) (target : TargetParam)
  /-- OVERRIDE_EXPIRY (R63). -/
  | overrideExpiry (zone : ZoneId)
  /-- DEFER_LIMIT_EXPIRY (R77). -/
  | deferLimitExpiry (sess : SessId)
  /-- SESSION_DURATION_END (R78). -/
  | sessionDurationEnd (sess : SessId)
  /-- CROSSPOINT_FRAME (R79). -/
  | crosspointFrame
  /-- PLAYING_RISE (R81). -/
  | playingRise (player : PlayerId)
  /-- PLAYING_FALL (R81). -/
  | playingFall (player : PlayerId)
  /-- CUE_TIMEOUT (R81). -/
  | cueTimeout (player : PlayerId)
  /-- PAUSE_ABANDON (R82). -/
  | pauseAbandon (sess : SessId)
  /-- PTT_PRESS (R83). -/
  | pttPress (console : ConsoleId)
  /-- PTT_RELEASE (R84). -/
  | pttRelease (console : ConsoleId)
  /-- EMERGENCY_KEY_CHANGE (R83). -/
  | emergencyKeyChange (console : ConsoleId)
  /-- CONSOLE_SET (R85). -/
  | consoleSet (cell : CellId) (tag : Word) (console group ceiling : Byte)
  /-- ANNOUNCE (R86). `which` is the pattern of a TONE or the player of a PLAYER. -/
  | announce (cell : CellId) (tag : Word) (cls source which message repeats : Byte)
      (duration deferLimit : Word) (target : TargetParam)
  /-- CANCEL_BY_NUMBER (R88). -/
  | cancelByNumber (cell : CellId) (tag : Word) (number : Byte)
  /-- CANCEL_BY_TAG (R88). -/
  | cancelByTag (cell : CellId) (tag wanted : Word)
  /-- PATTERN_PHASE_END (R95). -/
  | patternPhaseEnd (gen : GenId)
  /-- WAIT_LIST_GIVE_UP (R102). -/
  | waitListGiveUp (sess : SessId)
  /-- FIRE_CONTACT_CLOSURE (R110). -/
  | fireContactClosure (building : BuildingId)
  /-- FIRE_CONTACT_OPENING (R105). -/
  | fireContactOpening (building : BuildingId)
  /-- MUSTER_PRESS (R118). -/
  | musterPress (building : BuildingId)
  /-- MUSTER_RELEASE (R106). -/
  | musterRelease (building : BuildingId)
  /-- HUSH (R113). -/
  | hush (cell : CellId) (tag : Word) (mask : Byte)
  /-- ALL_CLEAR (R114). -/
  | allClear (cell : CellId) (tag : Word) (mask : Byte)
  /-- DRILL_START (R116). -/
  | drillStart (cell : CellId) (tag : Word) (mask profile : Byte)
  /-- PREALERT_TIMER_EXPIRY (R117). -/
  | prealertTimerExpiry (building : BuildingId)
  /-- LIMIT_TIMER_EXPIRY (R119). -/
  | limitTimerExpiry (building : BuildingId)
  /-- AUTO_TIMER_EXPIRY (R120). -/
  | autoTimerExpiry (building : BuildingId)
  /-- DRILL_ABORT (R121). -/
  | drillAbort (cell : CellId) (tag : Word) (mask : Byte)
  /-- LOG_COPY (R124). -/
  | logCopy (cell : CellId) (tag offset : Word)
  /-- LOG_COPY_WRITE (R124). -/
  | logCopyWrite
  /-- IMPULSE_SELECT_REQUEST (R130). -/
  | impulseSelectRequest (line : LineId)
  /-- IMPULSE_END (R131). -/
  | impulseEnd (line : LineId)
  /-- FAST_IMPULSE (R137). -/
  | fastImpulse (line : LineId)
  /-- PROBE_TIMER_EXPIRY (R140). -/
  | probeTimerExpiry (line : LineId)
  /-- CODED_FRAME_END (R141). -/
  | codedFrameEnd (line : LineId)
  /-- LINE_SET_DISPLAY (R142). -/
  | lineSetDisplay (cell : CellId) (tag : Word) (line polarity : Byte) (position : Word)
  /-- LINE_CONTROL_STOP (R143). -/
  | lineControlStop (cell : CellId) (tag : Word) (line : Byte)
  /-- LINE_CONTROL_RUN (R144). -/
  | lineControlRun (cell : CellId) (tag : Word) (line : Byte)
  /-- LINE_CONTROL_PROBE (R144). -/
  | lineControlProbe (cell : CellId) (tag : Word) (line : Byte)
  /-- CONVERSION_END (R152): the converter's reading, 0..1023. -/
  | conversionEnd (reading : BitVec 10)
  /-- ZERO_CROSSING (R158). -/
  | zeroCrossing
  /-- FREQUENCY_WINDOW_END (R158). -/
  | frequencyWindowEnd
  /-- SUPPLY_APPLIED (R164). -/
  | supplyApplied (pins : Pins)
  /-- RESET_ASSERT (R164). -/
  | resetAssert
  /-- RESET_RELEASE (R164). -/
  | resetRelease (pins : Pins)
  /-- RUNNING_ENTRY (R165). -/
  | runningEntry
  /-- LOAD (R167). -/
  | load (cell : CellId) (tag : Word) (kind : Byte) (offset length : Word)
  /-- LOAD_COPY_END (R168). -/
  | loadCopyEnd
  /-- SAVE (R169). -/
  | save (cell : CellId) (tag : Word)
  /-- SAVE_NOTHING_COMPLETE (R169). -/
  | saveNothingComplete
  /-- SAVE_PAGE_WRITE (R169). -/
  | savePageWrite (result : PageResult)
  /-- SWEEP_WRITE (R185): the word written, the host's writes that landed before it, and the writes of SWEEP that
  fall into the sweep it starts and into those they ask for (R172). -/
  | sweepWrite (value : Word) (host : List MemWrite) (asks : List SweepAsks)
  /-- PAGE_AGE_CLOSE (R179). -/
  | pageAgeClose
  /-- NOTICE_WRITE (R184). -/
  | noticeWrite (value : Word)
  /-- NOTICE_ENABLE_WRITE (R184). -/
  | noticeEnableWrite (value : Word)
  /-- REGISTER_WRITE_OTHER (R185, 12.2): a word address that is IDENT's or above 0x2003. -/
  | registerWriteOther (address : BitVec 14) (value : Word)
  /-- SUPPLY_FAILURE (R163): `torn` says how the validity word is left different from the sum. -/
  | supplyFailure (torn : Word)
  deriving DecidableEq, Repr

end Sys2Proof
end

