-- ==== Sys2Proof/Decode.lean ====
section
/-! DEFINITION. The GW7316 decodes no instruction words: no row of spec/opcode_table.json gives bits. -/

namespace Sys2Proof

/-- The command that a word spells by the table's bits. The table gives no row any bits ("fields" is empty in
every row), so no word spells a command. -/
def decodeTableWord (_nbits _w : Nat) : Option Instr := none

end Sys2Proof
end

