-- ==== Sys2Proof/Config.lean ====
section
/-! DEFINITION. What is fixed for the part (periods and limits the spec states) and the free values: what the spec leaves open, as constants with no body. -/

namespace Sys2Proof.Config

/-- The last standard second of the supported range, 2099-12-31 23:59:59 (R2, chapter 1 state table). -/
def lastSecond : Nat := 3155759999

/-- LOCKED lasts 57,600 eighths (R4). -/
def lockedPeriod : Nat := 57600

/-- HOLDOVER lasts 2,073,600 eighths (R4). -/
def holdoverPeriod : Nat := 2073600

/-- A telegram is completed within 8 eighths of its 'T' (R9). -/
def telegramTimeout : Nat := 8

/-- A session PAUSED this long is abandoned (R82). -/
def pauseLimit : Nat := 960

/-- PLAYING is high by this many eighths after the cue strobe (R81). -/
def cueLimit : Nat := 16

/-- A page is closed this many eighths after its first record (R179). -/
def pageAge : Nat := 16

/-- The probe interval of a faulted line (R140). -/
def probeInterval : Nat := 480

/-- Consecutive eighth boundaries a fire contact holds its new level (R105). -/
def contactSamples : Nat := 16

/-- Boundaries at which an input held for 1 eighth has shown its new level: its first and the next
(R83, R106). DEDUCED: the level is looked at on eighth boundaries. -/
def keySamples : Nat := 2

/-- Slots of a report page (11.5). -/
def pageSlots : Nat := 31

/-- Records the holding queue may hold (R181). -/
def queueLimit : Nat := 32

/-- The magic word of the standing image (10.4). -/
def magic : Word := 0x6A3C

/-- Bytes of the EEPROM (10.4). -/
def eepromSize : Nat := 32768

/-- The EEPROM offset of the first section (R169, 12.6). -/
def imageStart : Nat := 60

/-- IDENT, the part code (R185). -/
def ident : Word := 0x7316

/-- FREE VALUE. The position of a refusal or clamp for which the spec names no zone, building, line,
amplifier, record, step, program or entry: the section's code and the offset of the field in the body
(log entry 6). -/
opaque unstatedPosition : Nat → Nat → Word

/-- FREE VALUE. What a byte of the mirror shows where its field has no value and the spec gives no coding
for that (log entry 7): the model's counter and the byte's address. -/
opaque unstatedByte : Nat → Nat → Byte

end Sys2Proof.Config
end

