-- ==== Sys2Proof/Machine/State.lean ====
section
/-! DEFINITION. The state of the GW7316, block by block as the chapters hold it (0.1), as plain data; the state after reset; the reasons a step can stop. -/

namespace Sys2Proof.Machine

/-! ### Memories -/

/-- A memory in its one canonical form: addresses strictly rising, no byte 0 listed. An unlisted byte reads
0: common memory is cleared to 0 at every start (R165); for the EEPROM see log entry 5. -/
abbrev Mem := List Host.Cell

/-- The canonical form. -/
abbrev Mem.wf (m : Mem) : Prop := m.Pairwise (fun a b => a.1 < b.1) ∧ ∀ c ∈ m, c.2 ≠ 0#8

/-! ### Campus Time (chapter 1) -/

/-- Time quality (1.3). -/
inductive Quality where
  | unset | free | locked | holdover
  deriving DecidableEq, Repr

/-- A DST transition rule (1.8). -/
structure TransRule where
  month   : Nat
  ordinal : Nat
  weekday : Nat
  hour    : Nat
  deriving DecidableEq, Repr

/-- The DST rule (1.8): the offset in minutes, 0, 30 or 60, and the start and end rules. -/
structure DstRule where
  offset : Nat
  start  : TransRule
  stop   : TransRule
  deriving DecidableEq, Repr

/-- Civil time with its eighth (R3, R7). -/
structure CivilTime where
  day    : Nat
  sec    : Nat
  eighth : Nat
  deriving DecidableEq, Repr

/-- The cause of a time move (R7). -/
inductive MoveCause where
  | telegramStep | hostStep | firstSet | dstStart | dstEnd | dstRule
  deriving DecidableEq, Repr

/-- The DST change a time move carries (R7). -/
inductive DstChange where
  | unchanged | nowInForce | noLonger
  deriving DecidableEq, Repr

/-- A time move (R7); a FIRST_SET move has no old civil time. -/
structure TimeMove where
  old   : Option CivilTime
  new   : CivilTime
  cause : MoveCause
  dst   : DstChange
  deriving DecidableEq, Repr

/-- The eleven receiver counters, each saturating at 65535 (1.6). -/
structure RxCounters where
  parity       : Nat
  framing      : Nat
  overrun      : Nat
  checksum     : Nat
  format       : Nat
  range        : Nat
  weekday      : Nat
  gap          : Nat
  valid        : Nat
  acted        : Nat
  disagreement : Nat
  deriving DecidableEq, Repr

/-- A telegram being assembled: its characters so far and the elapsed count at its 'T' (1.6). -/
structure Assembly where
  chars : List Byte
  since : Nat
  deriving DecidableEq, Repr

/-- The candidate: a standard time and the elapsed count at its CR (1.6). -/
structure Candidate where
  stdSec : Nat
  at_    : Nat
  deriving DecidableEq, Repr

/-- A character that waits to be examined, with the elapsed count at which it was taken (R8, R9). -/
structure HeldChar where
  ch  : RxChar
  at_ : Nat
  deriving DecidableEq, Repr

/-- The Time Base. `again`: the second eighth 7 of a lengthened second is running; `adjusted`: the running
second is an adjusted one (R5). `boundaryDue`, `atBoundary` are the model's own marks: the last eighth of
the second has ended and its boundary is still to be taken; no event between eighth boundaries has come
since the last EIGHTH_END. `held` is the character not yet examined (R8). -/
structure TimeBase where
  elapsed      : Nat
  stdSec       : Nat
  eighth       : Nat
  again        : Bool
  adjusted     : Bool
  boundaryDue  : Bool
  atBoundary   : Bool
  dst          : DstRule
  dstInForce   : Bool
  quality      : Quality
  qualityTimer : Option Nat
  slewRem      : Int
  slewCount    : Nat
  assembly     : Option Assembly
  held         : Option HeldChar
  candidate    : Option Candidate
  disagree     : Bool
  counters     : RxCounters
  deriving DecidableEq, Repr

/-! ### Calendar and Day Plans (chapter 2) -/

/-- A record of the date override list (2.4). -/
structure DayOverride where
  day   : Nat
  dtype : Fin 16
  deriving DecidableEq, Repr

/-- A schedule-group record (2.2); grace in seconds. -/
structure SchedGroup where
  scope   : BuildingSet
  progMap : Tab (Option ProgId) 16
  grace   : Nat
  resume  : Bool
  deriving DecidableEq, Repr

/-- The Calendar Unit. -/
structure Calendar where
  today      : Option Nat
  todayType  : Option (Fin 16)
  base       : Nat
  dayMap     : Tab (Fin 16) 400
  quietGroup : Tab (Option ZoneGroupId) 16
  overrides  : List DayOverride
  groups     : Tab SchedGroup 8
  deriving DecidableEq, Repr

/-! ### Bell Programs (chapter 3) -/

/-- The action of an entry (3.1). -/
inductive Action where
  | ring | cue | quietOn | quietOff
  deriving DecidableEq, Repr

/-- A program entry (3.1). -/
structure Entry where
  time       : Nat
  action     : Action
  pattern    : PatternId
  message    : Byte
  player     : PlayerId
  duration   : Nat
  target     : ZoneGroupId
  deferLimit : Nat
  resumable  : Bool
  deriving DecidableEq, Repr

/-- An entry reference (3.1). -/
structure EntryRef where
  program : ProgId
  index   : Nat
  deriving DecidableEq, Repr

/-- A group's record at the Bell Scheduler; `working` false is the phase IDLE (3.2). -/
structure GroupWork where
  working   : Bool
  date      : Option Nat
  watermark : Int
  program   : Option ProgId
  quiet     : ZoneSet
  deriving DecidableEq, Repr

/-- The Bell Scheduler. -/
structure Bell where
  programs  : Tab (List Entry) 48
  groups    : Tab GroupWork 8
  resume    : Tab (Tab (Option EntryRef) 6) 8
  viewQuiet : Tab Bool 6
  deriving DecidableEq, Repr

/-! ### Zones and sessions (chapters 4 and 5) -/

/-- Admission mode (R57). -/
inductive Mode where
  | off | emergencyOnly | signals | full
  deriving DecidableEq, Repr

/-- The six classes (chapter 5). -/
inductive Cls where
  | evacuate | alert | drill | bell | page | message
  deriving DecidableEq, Repr

/-- A host override (R60): its mode and its expiry as an elapsed count, or none. -/
structure HostOverride where
  mode   : Mode
  expiry : Option Nat
  deriving DecidableEq, Repr

/-- A zone record (chapter 4); the amplifier of zone z is z divided by 4 and is not held. -/
structure Zone where
  building   : BuildingId
  base       : Mode
  dayQuiet   : Bool
  schedQuiet : Bool
  override   : Option HostOverride
  effective  : Mode
  fault      : Bool
  occupant   : Option SessId
  held       : Option SessId
  deriving DecidableEq, Repr

/-- The kind of a building's signal (7.2). -/
inductive SignalKind where
  | alarmElsewhere | preAlert | drillEvacuation | allClear | evacuation
  deriving DecidableEq, Repr

/-- The origin of a session (R69). -/
inductive Origin where
  | scheduler (group : SchedId) (ref : EntryRef)
  | request (cell : CellId) (tag : Word)
  | console (console : ConsoleId)
  | building (building : BuildingId) (kind : SignalKind)
  deriving DecidableEq, Repr

/-- The source of a session (R69). -/
inductive Source where
  | tone (pattern : PatternId)
  | player (player : PlayerId) (message : Byte) (repeats : Nat)
  | console (console : ConsoleId)
  deriving DecidableEq, Repr

/-- The state of a session (R69). -/
inductive SessState where
  | queued | active | paused
  deriving DecidableEq, Repr

/-- The cause a session ends with (R89). -/
inductive EndCause where
  | duration | playerDone | pttRelease | cancelled | cut | abandoned | noZones | noPlayer | noSource
  | building | power | reconfigured
  deriving DecidableEq, Repr

/-- A session record (R69). The refused set is held by reason. `activeAt` is the instant it became ACTIVE
(R78), `pausedAt` the instant it became PAUSED (R82). -/
structure Session where
  cls            : Cls
  origin         : Origin
  source         : Source
  state          : SessState
  duration       : Option Nat
  deferLimit     : Nat
  createdAt      : Nat
  seq            : Nat
  activeAt       : Option Nat
  pausedAt       : Option Nat
  requested      : ZoneSet
  connected      : ZoneSet
  waiting        : ZoneSet
  deferred       : ZoneSet
  held           : ZoneSet
  lost           : ZoneSet
  refNotAdmitted : ZoneSet
  refFaulted     : ZoneSet
  refSuppressed  : ZoneSet
  ever           : ZoneSet
  deriving DecidableEq, Repr

/-- A player record (5.8): current session, queue, the cue bus, the strobe waited on, whether the
repetition has started, the repetitions left after it, the PAUSE output, and (the model's own, log entry 46) whether PAUSE
was asserted at the boundary whose sample of PLAYING stands. -/
structure Player where
  current     : Option SessId
  queue       : List SessId
  cueBus      : Byte
  strobeAt    : Option Nat
  started     : Bool
  repsLeft    : Nat
  pause       : Bool
  pauseAtLast : Bool
  deriving DecidableEq, Repr

/-- A console record (5.9). `alertCeiling`: the ceiling is ALERT. The two counts are the debounce. -/
structure Console where
  target       : Option ZoneGroupId
  alertCeiling : Bool
  ptt          : Bool
  emergency    : Bool
  pttCount     : Nat
  emerCount    : Nat
  session      : Option SessId
  refusedMark  : Bool
  deriving DecidableEq, Repr

/-- A building's state (chapter 7). -/
inductive BState where
  | quiet | alerted | prealert | evacuating | mustered | standingDown | alarm | alarmHushed
  deriving DecidableEq, Repr

/-- The Zone Router. `latched` is the crosspoint frame in effect; `frame` is the frame that starts at this eighth
boundary, with the selections as they stood there; `seen` are the selections after the last event, and `changed` says
that one has changed since the last boundary (R79). -/
structure Router where
  zones     : Tab Zone 64
  maps      : Tab ZoneSet 6
  monitor   : Tab (Option ZoneId) 6
  spread    : Tab BuildingSet 6
  groups    : Tab ZoneSet 128
  view      : Tab BState 6
  sessions  : Tab (Option Session) 16
  seq       : Nat
  players   : Tab Player 2
  consoles  : Tab Console 2
  latched   : Tab (Option (Fin 8)) 64
  frame     : Option (Tab (Option (Fin 8)) 64)
  seen      : Tab (Option (Fin 8)) 64
  changed   : Bool
  deriving DecidableEq, Repr

/-! ### Tone Generators (chapter 6) -/

/-- A pattern step (6.1); tones are held as dividers. -/
structure ToneStep where
  toneA : Nat
  toneB : Option Nat
  on    : Nat
  off   : Nat
  deriving DecidableEq, Repr

/-- A generator record (chapter 6); it is PLAYING while it has a user. `begun`: the eighth boundary after
its grant has come (R95). -/
structure Generator where
  users   : List SessId
  cls     : Option Cls
  pattern : Option PatternId
  copy    : List ToneStep
  begun   : Bool
  step    : Nat
  onPhase : Bool
  left    : Nat
  divider : Option Nat
  deriving DecidableEq, Repr

/-- The Tone Bank. -/
structure ToneBank where
  patterns : Tab (List ToneStep) 8
  gens     : Tab Generator 4
  waitList : List SessId
  deriving DecidableEq, Repr

/-! ### Evacuation Drills and Fire Alarms (chapter 7) -/

/-- The pre-alert source of a profile (R115). -/
inductive PreAlert where
  | tone (pattern : PatternId)
  | player (player : PlayerId) (message : Byte) (repeats : Nat)
  deriving DecidableEq, Repr

/-- A drill profile (R115); durations in seconds, the all-clear duration in eighths. -/
structure Profile where
  preAlertSec   : Nat
  preAlert      : PreAlert
  evacPattern   : PatternId
  limitSec      : Nat
  autoSec       : Nat
  clearPattern  : PatternId
  clearDuration : Nat
  deriving DecidableEq, Repr

/-- A drill outcome other than none (chapter 7). -/
inductive DrillOutcome where
  | completed | timedOut | aborted
  deriving DecidableEq, Repr

/-- The kind of a building's timer (chapter 7). -/
inductive TimerKind where
  | prealert | limit | auto
  deriving DecidableEq, Repr

/-- A building record (chapter 7). The counts are the debounce (R105, R106); `evacFrom` is the elapsed count
kept at the evacuation start or the closure (R110, R117). -/
structure Building where
  state        : BState
  contact      : Bool
  muster       : Bool
  contactCount : Nat
  musterCount  : Nat
  sources      : BuildingSet
  profile      : Option ProfileId
  outcome      : Option DrillOutcome
  openRec      : Option Word
  signal       : Option SessId
  wanted       : Bool
  timer        : Option (TimerKind × Nat)
  evacFrom     : Option Nat
  deriving DecidableEq, Repr

/-- Standard seconds and eighth (R123). -/
structure Stamp where
  sec    : Nat
  eighth : Nat
  deriving DecidableEq, Repr

/-- The outcome of a log record (R123); `stillOpen` is OPEN. -/
inductive LogOutcome where
  | stillOpen | completed | timedOut | aborted | interruptedByAlarm | alarmCleared | powerLost
  deriving DecidableEq, Repr

/-- A record of the evacuation log (R123). -/
structure LogRec where
  serial    : Word
  isAlarm   : Bool
  building  : BuildingId
  profile   : Option ProfileId
  quality   : Quality
  start     : Stamp
  preStart  : Stamp
  evacStart : Option Stamp
  muster    : Option Stamp
  evacTime  : Option Nat
  endTime   : Option Stamp
  outcome   : LogOutcome
  deriving DecidableEq, Repr

/-- The Drill and Alarm Controller. -/
structure DrillCtl where
  buildings : Tab Building 6
  profiles  : Tab (Option Profile) 8
  log       : List LogRec
  serial    : Word
  deriving DecidableEq, Repr

/-! ### Room Clock Lines (chapter 8) -/

/-- What a line carries (8.1). -/
inductive LineKind where
  | disabled | minute | halfMinute | coded
  deriving DecidableEq, Repr

/-- A line's state (chapter 8); a DISABLED line has `disabled`. -/
inductive LineState where
  | unknown | inStep | advanceWait | advancing | holding | stopped | fault | disabled
  deriving DecidableEq, Repr

/-- The enable an impulse drives. -/
inductive Polarity where
  | a | b
  deriving DecidableEq, Repr

/-- The kind of an impulse in flight (chapter 8). -/
inductive ImpulseKind where
  | normal | fast | probe | frame
  deriving DecidableEq, Repr

/-- A channel's class, and a conversion's result (chapter 9). -/
inductive ChanClass where
  | ok | openCircuit | short
  deriving DecidableEq, Repr

/-- The impulse or frame in flight: its kind, whether it is a frame of a coded line and its bytes (R141),
its start and width, the enable driven, whether the select conversion was asked for, the result kept, and
whether the host set the display during it (R142). -/
structure Impulse where
  kind     : ImpulseKind
  coded    : Bool
  bytes    : List Byte
  start    : Nat
  width    : Nat
  polarity : Polarity
  asked    : Bool
  result   : Option ChanClass
  hostSet  : Bool
  deriving DecidableEq, Repr

/-- The verdict of a correction decision (R133). -/
inductive Verdict where
  | inStep | advance | hold
  deriving DecidableEq, Repr

/-- A correction decision (R133). -/
structure Decision where
  verdict  : Verdict
  lag      : Nat
  lead     : Nat
  expected : Nat
  deriving DecidableEq, Repr

/-- A line record (chapter 8). `probeAsked`: LINE_CONTROL PROBE starts a probe at the next eighth boundary
(R144). `outputOff`: a SHORT left the A output of a coded line off (R141). -/
structure Line where
  kind       : LineKind
  q          : Nat
  w          : Nat
  display    : Option Nat
  polarity   : Polarity
  state      : LineState
  stopped    : Bool
  failCount  : Nat
  inflight   : Option Impulse
  reeval     : Bool
  fastTimer  : Option Nat
  probeTimer : Option Nat
  probeAsked : Bool
  outputOff  : Bool
  last       : Option Decision
  deriving DecidableEq, Repr

/-- The Clock Line Driver. -/
structure LineDrv where
  lines   : Tab Line 8
  budget  : Nat
  grants  : List LineId
  waiting : List LineId
  deriving DecidableEq, Repr

/-! ### Line and Amplifier Supervision (chapter 9) -/

/-- The kind of a conversion (R149); a SELECT is `live` while the impulse that asked is in flight (R152). -/
inductive ConvKind where
  | select (live : Bool)
  | scan
  deriving DecidableEq, Repr

/-- A conversion in progress. -/
structure Conversion where
  channel : ChannelId
  kind    : ConvKind
  deriving DecidableEq, Repr

/-- A channel record (chapter 9), the history oldest first. -/
structure Channel where
  history : List Nat
  cls     : ChanClass
  openT   : Nat
  shortT  : Nat
  deriving DecidableEq, Repr

/-- The Supervision Scanner; no conversion is the converter IDLE. `scanDue`: the scan has still to look for the
converter at this eighth boundary, after the select requests of the same instant (R151). -/
structure Scanner where
  converter : Option Conversion
  queue     : List LineId
  scanDue   : Bool
  pos       : ChannelId
  channels  : Tab Channel 24
  deriving DecidableEq, Repr

/-! ### Power, Start-up and the Standing Image (chapter 10) -/

/-- Mains state (R158). -/
inductive MainsState where
  | absent | qualifying | present
  deriving DecidableEq, Repr

/-- Power state (R159). -/
inductive PowerState where
  | normal | reserve | retained
  deriving DecidableEq, Repr

/-- Part state (R165). -/
inductive PartState where
  | starting | running
  deriving DecidableEq, Repr

/-- Start cause (R164). -/
inductive StartCause where
  | cold | warmPower | pin | request
  deriving DecidableEq, Repr

/-- The cause of a change of power state (R160 to R162). -/
inductive PowerCause where
  | mainsLost | frequency | mainsReturned | batteryLow
  deriving DecidableEq, Repr

/-- The seven section kinds (12.1), in the order of R166. -/
inductive SectKind where
  | site | groups | patterns | programs | calendar | lines | drills
  deriving DecidableEq, Repr

/-- A result code (12.1). -/
inductive Code where
  | ok | clamped | unknownKind | badParam | range | busy | notReady | state | tableFull | noSession
  | checksum | order | referenceLocked | contactActive | storeFault
  deriving DecidableEq, Repr

/-- The outcome of a section at a start (R166). -/
inductive SectOutcome where
  | installed | clamped | absent | entryBad | noStore | checksum
  | refused (code : Code) (position : Word)
  | noImage
  deriving DecidableEq, Repr

/-- What the retained block holds of one line (R163). -/
structure RetLine where
  kind     : LineKind
  display  : Option Nat
  polarity : Polarity
  stopped  : Bool
  deriving DecidableEq, Repr

/-- The fields of the retained block (R163). -/
structure RetFields where
  stdSec     : Nat
  eighth     : Nat
  quality    : Quality
  dstInForce : Bool
  overrides  : List DayOverride
  dates      : Tab (Option Nat) 8
  watermarks : Tab Int 8
  lines      : Tab RetLine 8
  log        : List LogRec
  serial     : Word
  deriving DecidableEq, Repr

/-- The retained block: its fields and its validity word (R163). -/
structure Retained where
  fields   : RetFields
  validity : Word
  deriving DecidableEq, Repr

/-- A store operation in flight with its cell and tag (R175, R176). `armed`: the eighth boundary after its take
has come. A LOAD holds the bytes copied so far; a SAVE the page writes still to make, each an offset and its
bytes, and the sections and bytes its result will give. -/
inductive StoreOp where
  | load (cell : CellId) (tag : Word) (kind : SectKind) (offset length : Nat) (copied : List Byte) (armed : Bool)
  | save (cell : CellId) (tag : Word) (plan : List (Nat × List Byte)) (sections bytes : Nat) (armed : Bool)
  | saveNothing (cell : CellId) (tag : Word) (armed : Bool)
  | logCopy (cell : CellId) (tag : Word) (offset : Nat) (log : List LogRec) (armed : Bool)
  deriving DecidableEq, Repr

/-- The Power Monitor and Retained Store. `crossings` are those of the running eighth, `windowCross` those
of the running window before it, `windowWhole`: the mains has been PRESENT since the window began;
`windowDue`: a window has ended with so many crossings and is still to be judged (R158). `supplied`: the
part has its supply. `eeprom` is the EEPROM's content. -/
structure PowerMon where
  supplied      : Bool
  resetAsserted : Bool
  mains         : MainsState
  qualEighths   : Nat
  qualCross     : Nat
  freq          : Nat
  crossings     : Nat
  windowCross   : Nat
  windowWhole   : Bool
  windowDue     : Option Nat
  power         : PowerState
  part          : PartState
  cause         : StartCause
  validAtStart  : Bool
  dstChanged    : Bool
  outcomes      : Tab SectOutcome 7
  retained      : Retained
  images        : Tab (Option (List Byte)) 7
  changed       : Tab Bool 7
  storeOp       : Option StoreOp
  eeprom        : Mem
  deriving DecidableEq, Repr

/-! ### Common Memory and Requests (chapter 11) -/

/-- A cell-ownership record (chapter 11). -/
structure CellOwn where
  inFlight : Bool
  count    : Word
  deriving DecidableEq, Repr

/-- The outcome of a firing (R45). -/
inductive FireOutcome where
  | session (n : SessId)
  | suppressed | tableFull | noZones | quiet
  deriving DecidableEq, Repr

/-- Why undelivered zones were not reached (R90). -/
inductive UndeliveredReason where
  | notAdmitted | faulted | suppressed | lost | waiting | deferredOut
  deriving DecidableEq, Repr

/-- The cause of a building's transition (R107). -/
inductive BuildingCause where
  | contact | spread | sourcesCleared | hush | allClear | drillStart | prealertEnd | muster | limit | auto
  | abort | signalEnd
  deriving DecidableEq, Repr

/-- The cause of a change of a line's state (R147). -/
inductive LineCause where
  | decision | grant | caughtUp | heldOut | fault | probeOk | setDisplay | stop | run | power | load
  deriving DecidableEq, Repr

/-- What a report record says (R177, 12.4). -/
inductive Report where
  | entryFired (group : SchedId) (ref : EntryRef) (lateness : Nat) (outcome : FireOutcome)
      (suppressed : BuildingSet) (resume : Bool)
  | entryMissed (group : SchedId) (ref : EntryRef) (lateness : Nat)
  | groupSkipped (group : SchedId) (day : Nat) (program : Option ProgId) (remainder passed : Nat)
  | sessionEnd (n : SessId) (cls : Cls) (cause : EndCause) (ever : ZoneSet)
  | sessionUndelivered (n : SessId) (cls : Cls) (reason : UndeliveredReason) (zones : ZoneSet)
  | buildingState (building : BuildingId) (old new : BState) (cause : BuildingCause)
  | evacuationResult (serial : Word) (building : BuildingId) (profile : Option ProfileId)
      (outcome : LogOutcome) (evacTime : Option Nat)
  | lineState (line : LineId) (old new : LineState) (cause : LineCause)
  | lineDecision (line : LineId) (decision : Decision)
  | channelState (channel : ChannelId) (old new : ChanClass) (reading : Nat)
  | qualityChange (old new : Quality)
  | timeMoved (cause : MoveCause) (dst : DstChange) (difference : Int)
  | dstDisagreement
  | powerChange (old new : PowerState) (cause : PowerCause) (freq : Nat)
  | started (cause : StartCause) (valid dstChanged : Bool) (power : PowerState)
      (outcomes : Tab SectOutcome 7)
  deriving DecidableEq, Repr

/-- A report record as handed over (R177). -/
structure Rec where
  report  : Report
  urgent  : Bool
  quality : Quality
  sec     : Nat
  eighth  : Nat
  deriving DecidableEq, Repr

/-- The page that is FILLING (R178): its number, sequence, record count and dropped count as its header has
them, and the elapsed count of its first record. -/
structure CurPage where
  page    : Fin 8
  seq     : Word
  count   : Nat
  dropped : Nat
  first   : Option Nat
  deriving DecidableEq, Repr

/-- How many records the mirror holds (R182). -/
abbrev mirrorRecords : Nat := 131

/-- The Request Handler and Report Writer. `writerOn`: the Report Writer accepts records (R177). -/
structure ReqHandler where
  cells        : Tab CellOwn 24
  sweeping     : Bool
  again        : Bool
  sweepCount   : Word
  current      : Option CurPage
  nextPage     : Fin 8
  pageSeq      : Word
  queue        : List Rec
  dropped      : Nat
  writerOn     : Bool
  mirrorCounts : Tab Word mirrorRecords
  notice       : BitVec 6
  noticeEnable : BitVec 6
  revision     : Word
  deriving DecidableEq, Repr

/-- The model's own fields. While one event is carried out: `touched`, the sessions whose sets changed and
that are still to be settled (R91); `ended`, a session has left the table (R108); `standDowns`, buildings
whose all-clear session has ended (R122); `cutGen`, the generator being taken (R101); `cutPlayer`, the
player being passed (R80). `free` counts the free values drawn. -/
structure Work where
  touched    : List SessId
  ended      : Bool
  standDowns : List BuildingId
  cutGen     : Option GenId
  cutPlayer  : Option PlayerId
  free       : Nat
  deriving DecidableEq, Repr

/-- The state of the GW7316. -/
structure State where
  time    : TimeBase
  cal     : Calendar
  bell    : Bell
  router  : Router
  tone    : ToneBank
  drill   : DrillCtl
  line    : LineDrv
  scan    : Scanner
  power   : PowerMon
  rh      : ReqHandler
  mem     : Mem
  pins    : Pins
  work    : Work
  pending : List Instr
  deriving DecidableEq, Repr

/-- Why a step stops with a fault: nothing of the spec stops the part, so there is none. -/
inductive Fault where
  deriving DecidableEq, Repr

/-- Why a step is refused. -/
inductive Refusal where
  /-- Raised by exec's arm of a command that has no meaning yet; safe. No arm raises it now. -/
  | notModelled (mnemonic : String)
  deriving DecidableEq, Repr

/-! ### Start values -/

/-- Receiver counters all 0 (R20). -/
def RxCounters.zero : RxCounters := ⟨0, 0, 0, 0, 0, 0, 0, 0, 0, 0, 0⟩

/-- DST offset 0, the default without a CALENDAR section (1.8); its rule fields are not consulted. -/
def DstRule.none : DstRule := ⟨0, ⟨1, 1, 0, 0⟩, ⟨1, 1, 0, 0⟩⟩

/-- The Time Base after a COLD start (R20). -/
def TimeBase.cold : TimeBase :=
  { elapsed := 0, stdSec := 0, eighth := 0, again := false, adjusted := false, boundaryDue := false,
    atBoundary := false, dst := DstRule.none, dstInForce := false, quality := .unset, qualityTimer := none,
    slewRem := 0, slewCount := 0, assembly := none, held := none, candidate := none, disagree := false,
    counters := RxCounters.zero }

/-- A schedule group without a CALENDAR section (2.5). -/
def SchedGroup.default : SchedGroup := ⟨0x3F#6, Tab.all 16 none, 60, false⟩

/-- The Calendar Unit after a COLD start without a CALENDAR section (2.5, R33). -/
def Calendar.cold : Calendar :=
  ⟨none, none, 0, Tab.all 400 0, Tab.all 16 none, [], Tab.all 8 SchedGroup.default⟩

/-- A group's record after a COLD start (R52). -/
def GroupWork.cold : GroupWork := ⟨false, none, -1, none, 0⟩

/-- The Bell Scheduler after a COLD start without a PROGRAMS section (R52). -/
def Bell.cold : Bell := ⟨Tab.all 48 [], Tab.all 8 GroupWork.cold, Tab.all 8 (Tab.all 6 none), Tab.all 6 true⟩

/-- A zone record at a start without a SITE section (R53, R68). -/
def Zone.start : Zone := ⟨0, .full, false, false, none, .full, false, none, none⟩

/-- A player record at every start (R94). -/
def Player.start : Player := ⟨none, [], 0, none, false, 0, false, false⟩

/-- A console record at every start (5.9). -/
def Console.start : Console := ⟨none, false, false, false, 0, 0, none, false⟩

/-- The group table without a GROUPS section: group 0 is every zone, the others are empty (R55). -/
def groupsDefault : Tab ZoneSet 128 := (Tab.all 128 (0 : ZoneSet)).put 0 (BitVec.allOnes 64)

/-- The building-zone maps when every zone is in building 0 (R53, R54). -/
def mapsDefault : Tab ZoneSet 6 := (Tab.all 6 (0 : ZoneSet)).put 0 (BitVec.allOnes 64)

/-- The Zone Router at a start without SITE and GROUPS sections (R68, R94). -/
def Router.start : Router :=
  { zones := Tab.all 64 Zone.start, maps := mapsDefault, monitor := Tab.all 6 none,
    spread := Tab.all 6 0, groups := groupsDefault, view := Tab.all 6 .quiet, sessions := Tab.all 16 none,
    seq := 0, players := Tab.all 2 Player.start, consoles := Tab.all 2 Console.start,
    latched := Tab.all 64 none, frame := none, seen := Tab.all 64 none, changed := false }

/-- The built-in patterns 0..3 (R96), their tones as the dividers of R97, and 4..7 empty. -/
def patternsDefault : Tab (List ToneStep) 8 :=
  ((((Tab.all 8 ([] : List ToneStep)).put 0 [⟨552, none, 4, 4⟩, ⟨552, none, 4, 4⟩, ⟨552, none, 4, 16⟩]).put 1
    [⟨655, some 524, 254, 0⟩]).put 2 [⟨524, none, 255, 0⟩]).put 3 [⟨596, none, 4, 0⟩, ⟨794, none, 4, 8⟩]

/-- A FREE generator (R99, R104). -/
def Generator.idle : Generator := ⟨[], none, none, [], false, 0, true, 0, none⟩

/-- The Tone Bank at a start without a PATTERNS section (R104). -/
def ToneBank.start : ToneBank := ⟨patternsDefault, Tab.all 4 Generator.idle, []⟩

/-- Drill profile 0 (R115). -/
def profile0 : Profile := ⟨0, .tone 0, 0, 900, 0, 3, 40⟩

/-- A building record at a start with its inputs open and released (R126). -/
def Building.start : Building :=
  ⟨.quiet, false, false, 0, 0, 0, none, none, none, none, false, none, none⟩

/-- The Drill and Alarm Controller after a COLD start without a DRILLS section (R126). -/
def DrillCtl.cold : DrillCtl :=
  ⟨Tab.all 6 Building.start, (Tab.all 8 none).put 0 (some profile0), [], 0⟩

/-- A line without a LINES section: DISABLED (R127, R148); q and w at 0 are not consulted. -/
def Line.disabled : Line :=
  ⟨.disabled, 0, 0, none, .a, .disabled, false, 0, none, false, none, none, false, false, none⟩

/-- The Clock Line Driver without a LINES section: K is 2 (R127). -/
def LineDrv.start : LineDrv := ⟨Tab.all 8 Line.disabled, 2, [], []⟩

/-- A channel at a start without its section: thresholds 64 and 960 (R153, R157). -/
def Channel.start : Channel := ⟨[], .ok, 64, 960⟩

/-- The Supervision Scanner at every start (R157). -/
def Scanner.start : Scanner := ⟨none, [], false, 8, Tab.all 24 Channel.start⟩

/-- The fields of a retained block that has never been written (log entry 3). -/
def RetFields.cold : RetFields :=
  ⟨0, 0, .unset, false, [], Tab.all 8 none, Tab.all 8 (-1), Tab.all 8 ⟨.disabled, none, .a, false⟩, [], 0⟩

/-- The Power Monitor after supply is applied to a part whose block is invalid and whose EEPROM holds no
image (R158, R165, R166); the validity word is one that differs from the block's sum (log entry 3). -/
def PowerMon.reset : PowerMon :=
  { supplied := true, resetAsserted := false, mains := .absent, qualEighths := 0, qualCross := 0, freq := 0,
    crossings := 0, windowCross := 0, windowWhole := false, windowDue := none, power := .reserve,
    part := .starting, cause := .cold, validAtStart := false, dstChanged := false,
    outcomes := Tab.all 7 .noImage, retained := ⟨RetFields.cold, 0⟩, images := Tab.all 7 none,
    changed := Tab.all 7 false, storeOp := none, eeprom := [] }

/-- The Request Handler and Report Writer after the clearing of start step 1 (R186); the revision is log
entry 2. -/
def ReqHandler.start (revision : Word) : ReqHandler :=
  { cells := Tab.all 24 ⟨false, 0⟩, sweeping := false, again := false, sweepCount := 0, current := none,
    nextPage := 0, pageSeq := 0, queue := [], dropped := 0, writerOn := false,
    mirrorCounts := Tab.all mirrorRecords 0, notice := 0, noticeEnable := 0, revision := revision }

/-- Every input at rest, and the EEPROM answering (log entry 4). -/
def pinsAtRest : Pins := ⟨0, 0, 0, 0, 0, false, 0xFF⟩

/-- No event under way. -/
def Work.idle (free : Nat) : Work := ⟨[], false, [], none, none, free⟩

/-- The part right after reset: supply has been applied, the retained block was found invalid, and start
steps 1 to 4 have been taken (R164, R165). It is STARTING; RUNNING_ENTRY comes next (log entry 1). -/
def State.reset : State :=
  { time := TimeBase.cold, cal := Calendar.cold, bell := Bell.cold, router := Router.start,
    tone := ToneBank.start, drill := DrillCtl.cold, line := LineDrv.start, scan := Scanner.start,
    power := PowerMon.reset, rh := ReqHandler.start 0, mem := [], pins := pinsAtRest, work := Work.idle 0,
    pending := [] }

end Sys2Proof.Machine
end

