-- ==== Sys2Proof/Machine/Memory.lean ====
section
/-! DEFINITION. Reading and writing the two memories, in bytes and in little-endian words (0.4, R171), and the little-endian fields of chapter 12. -/

namespace Sys2Proof.Machine

/-- The byte at an address; an unlisted byte reads 0. -/
def Mem.read : Mem → Nat → Byte
  | [], _ => 0
  | c :: m, a => if c.1 = a then c.2 else Mem.read m a

/-- The cells of bytes laid from `base`, those of value 0 left out. -/
def Mem.cells (base : Nat) : List Byte → Mem
  | [] => []
  | b :: bs => if b = 0 then Mem.cells (base + 1) bs else (base, b) :: Mem.cells (base + 1) bs

/-- Bytes written from `base` on, in ascending order. -/
def Mem.write (m : Mem) (base : Nat) (bytes : List Byte) : Mem :=
  m.filter (fun c => decide (c.1 < base)) ++
    (Mem.cells base bytes ++ m.filter (fun c => decide (base + bytes.length ≤ c.1)))

/-- `n` bytes read from `base` on. -/
def Mem.readBytes (m : Mem) (base : Nat) : Nat → List Byte
  | 0 => []
  | n + 1 => m.read base :: Mem.readBytes m (base + 1) n

/-- A word at a byte address, little-endian (0.4). -/
def Mem.readWord (m : Mem) (a : Nat) : Word := m.read (a + 1) ++ m.read a

/-- `n` bytes of a number, the least significant first (0.4). -/
def leBytes : Nat → Nat → List Byte
  | 0, _ => []
  | n + 1, v => BitVec.ofNat 8 v :: leBytes n (v / 256)

/-- A two's complement field of `n` bytes (chapter 12, "s32", "s48"). -/
def leSigned (n : Nat) (v : Int) : List Byte := leBytes n (v % (256 ^ n : Nat)).toNat

/-- The number that bytes spell, the least significant first. -/
def leValue : List Byte → Nat
  | [] => 0
  | b :: bs => b.toNat + 256 * leValue bs

/-- The two bytes of a word. -/
def wordBytes (w : Word) : List Byte := leBytes 2 w.toNat

/-- Byte `i` of a byte string; past its end 0. -/
def byteAt (bs : List Byte) (i : Nat) : Nat := (bs.getD i 0).toNat

/-- The word at offset `i` of a byte string. -/
def wordAt (bs : List Byte) (i : Nat) : Nat := byteAt bs i + 256 * byteAt bs (i + 1)

/-- The 64-zone mask at offset `i` of a byte string, bit z for zone z. -/
def maskAt (bs : List Byte) (i : Nat) : ZoneSet := BitVec.ofNat 64 (leValue ((bs.drop i).take 8))

/-- The 16-bit sum of bytes (10.4). -/
def byteSum (bs : List Byte) : Word := BitVec.ofNat 16 ((bs.map BitVec.toNat).sum)

/-- The exclusive-or of bytes (1.6, R141). -/
def xorBytes (bs : List Byte) : Byte := bs.foldl (· ^^^ ·) 0

/-- A mask of 64 zones as 8 bytes. -/
def maskBytes (m : ZoneSet) : List Byte := leBytes 8 m.toNat

/-- A byte string brought to length `n`: cut, or filled with 0. -/
def fit (n : Nat) (bs : List Byte) : List Byte := (bs ++ List.replicate n 0).take n

/-! ### Where things stand in common memory (0.2, 12.3 to 12.5) -/

/-- The first byte of cell i. -/
def cellBase (i : CellId) : Nat := 0x100 + 64 * i.val
/-- The first byte of page p. -/
def pageBase (p : Fin 8) : Nat := 0x1000 + 512 * p.val
/-- The first byte of the staging area. -/
def stagingBase : Nat := 0x2000

end Sys2Proof.Machine
end

