-- ==== Sys2Proof/Machine/Ops.lean ====
section
/-! DEFINITION. The named updates of State, one for each block, and the conditions under which the blocks run. The part has no exception entry; its shared operations stand in the files of the blocks. -/

namespace Sys2Proof.Machine

/-- The Time Base updated. -/
def State.onTime (f : TimeBase → TimeBase) (s : State) : State := { s with time := f s.time }
/-- The Calendar Unit updated. -/
def State.onCal (f : Calendar → Calendar) (s : State) : State := { s with cal := f s.cal }
/-- The Bell Scheduler updated. -/
def State.onBell (f : Bell → Bell) (s : State) : State := { s with bell := f s.bell }
/-- The Zone Router updated. -/
def State.onRouter (f : Router → Router) (s : State) : State := { s with router := f s.router }
/-- The Tone Bank updated. -/
def State.onTone (f : ToneBank → ToneBank) (s : State) : State := { s with tone := f s.tone }
/-- The Drill and Alarm Controller updated. -/
def State.onDrill (f : DrillCtl → DrillCtl) (s : State) : State := { s with drill := f s.drill }
/-- The Clock Line Driver updated. -/
def State.onLine (f : LineDrv → LineDrv) (s : State) : State := { s with line := f s.line }
/-- The Supervision Scanner updated. -/
def State.onScan (f : Scanner → Scanner) (s : State) : State := { s with scan := f s.scan }
/-- The Power Monitor and Retained Store updated. -/
def State.onPower (f : PowerMon → PowerMon) (s : State) : State := { s with power := f s.power }
/-- The Request Handler and Report Writer updated. -/
def State.onRh (f : ReqHandler → ReqHandler) (s : State) : State := { s with rh := f s.rh }
/-- Common memory updated. -/
def State.onMem (f : Mem → Mem) (s : State) : State := { s with mem := f s.mem }
/-- The pins as they stand now. -/
def State.setPins (p : Pins) (s : State) : State := { s with pins := p }
/-- The model's own fields updated. -/
def State.onWork (f : Work → Work) (s : State) : State := { s with work := f s.work }
/-- The queue of commands replaced. -/
def State.setPending (q : List Instr) (s : State) : State := { s with pending := q }

/-! ### Records of the blocks, by number -/

/-- Zone z's record. -/
def State.zone (s : State) (z : ZoneId) : Zone := s.router.zones.at z
/-- Session n's record, or none where it is free. -/
def State.sess (s : State) (n : SessId) : Option Session := s.router.sessions.at n
/-- Building b's record. -/
def State.building (s : State) (b : BuildingId) : Building := s.drill.buildings.at b
/-- Line l's record. -/
def State.clock (s : State) (l : LineId) : Line := s.line.lines.at l
/-- Generator g's record. -/
def State.gen (s : State) (g : GenId) : Generator := s.tone.gens.at g
/-- Player p's record. -/
def State.player (s : State) (p : PlayerId) : Player := s.router.players.at p
/-- Console c's record. -/
def State.console (s : State) (c : ConsoleId) : Console := s.router.consoles.at c
/-- Channel k's record. -/
def State.channel (s : State) (k : ChannelId) : Channel := s.scan.channels.at k

/-- Zone z's record updated. -/
def State.onZone (z : ZoneId) (f : Zone → Zone) : State → State :=
  State.onRouter fun r => { r with zones := r.zones.put z (f (r.zones.at z)) }
/-- Session n's record replaced. -/
def State.setSess (n : SessId) (o : Option Session) : State → State :=
  State.onRouter fun r => { r with sessions := r.sessions.put n o }
/-- Session n's record updated, if there is one. -/
def State.onSess (n : SessId) (f : Session → Session) (s : State) : State :=
  s.setSess n ((s.sess n).map f)
/-- Building b's record updated. -/
def State.onBuilding (b : BuildingId) (f : Building → Building) : State → State :=
  State.onDrill fun d => { d with buildings := d.buildings.put b (f (d.buildings.at b)) }
/-- Line l's record updated. -/
def State.onClock (l : LineId) (f : Line → Line) : State → State :=
  State.onLine fun d => { d with lines := d.lines.put l (f (d.lines.at l)) }
/-- Generator g's record updated. -/
def State.onGen (g : GenId) (f : Generator → Generator) : State → State :=
  State.onTone fun t => { t with gens := t.gens.put g (f (t.gens.at g)) }
/-- Player p's record updated. -/
def State.onPlayer (p : PlayerId) (f : Player → Player) : State → State :=
  State.onRouter fun r => { r with players := r.players.put p (f (r.players.at p)) }
/-- Console c's record updated. -/
def State.onConsole (c : ConsoleId) (f : Console → Console) : State → State :=
  State.onRouter fun r => { r with consoles := r.consoles.put c (f (r.consoles.at c)) }
/-- Channel k's record updated. -/
def State.onChannel (k : ChannelId) (f : Channel → Channel) : State → State :=
  State.onScan fun r => { r with channels := r.channels.put k (f (r.channels.at k)) }
/-- Group g's record at the Bell Scheduler updated. -/
def State.onGroup (g : SchedId) (f : GroupWork → GroupWork) : State → State :=
  State.onBell fun r => { r with groups := r.groups.put g (f (r.groups.at g)) }

/-! ### When the blocks run -/

/-- The elapsed count (R1). -/
def State.now (s : State) : Nat := s.time.elapsed

/-- The part has supply and its reset input is not asserted (R164). -/
def State.live (s : State) : Bool := s.power.supplied && !s.power.resetAsserted

/-- The part is RUNNING in NORMAL or RESERVE: every block runs (R19, R125, R157, R186). -/
def State.up (s : State) : Bool :=
  s.live && s.power.part == .running && s.power.power != .retained

/-- The part is STARTING and not held in reset (R165). -/
def State.starting (s : State) : Bool := s.live && s.power.part == .starting

/-- The power state is NORMAL. -/
def State.mainsOn (s : State) : Bool := s.power.power == .normal

/-- The host bus is served (R162, R164, R165). -/
def State.busServed (s : State) : Bool := s.live && s.power.power != .retained

/-- Campus time is set: quality is not UNSET (R2). -/
def State.timeSet (s : State) : Bool := s.time.quality != .unset

/-- The members of a list dealt with in turn, each whole before the next. -/
def State.each {α : Type} (s : State) (xs : List α) (f : α → State → State) : State :=
  xs.foldl (fun s x => f x s) s

/-- Every number of a table, ascending. -/
def allOf (n : Nat) : List (Fin n) := List.finRange n

/-- An ascending list of numbers with one added, once. -/
def insertNum {n : Nat} (x : Fin n) : List (Fin n) → List (Fin n)
  | [] => [x]
  | y :: ys => if x = y then y :: ys else if x.val < y.val then x :: y :: ys else y :: insertNum x ys

/-- A number below `n`, if it is one. -/
def asFin (n v : Nat) : Option (Fin n) := if h : v < n then some ⟨v, h⟩ else none

end Sys2Proof.Machine
end

