-- ==== Sys2Proof/Machine/Dates.lean ====
section
/-! DEFINITION. Date and weekday arithmetic (R18), the DST rule (R15, R16), and civil time (R3). -/

namespace Sys2Proof.Machine

/-- The days of a month; February has 29 in every year divisible by 4 (R18). -/
def monthDays (year month : Nat) : Nat :=
  match month with
  | 2 => if year % 4 = 0 then 29 else 28
  | 4 | 6 | 9 | 11 => 30
  | _ => 31

/-- The days in months 1..m of a year. -/
def daysThrough (year : Nat) : Nat → Nat
  | 0 => 0
  | m + 1 => daysThrough year m + monthDays year (m + 1)

/-- A calendar date. -/
structure Date where
  year  : Nat
  month : Nat
  day   : Nat
  deriving DecidableEq, Repr

/-- The day number of a date (R18). -/
def dayNumber (t : Date) : Nat :=
  365 * (t.year - 2000) + (t.year - 2000 + 3) / 4 + daysThrough t.year (t.month - 1) + (t.day - 1)

/-- Month and day of a day of the year, looked for from `month` on through `left` months. -/
def monthOfDay (year : Nat) : Nat → Nat → Nat → Nat × Nat
  | 0, month, doy => (month, doy + 1)
  | left + 1, month, doy =>
    if doy < monthDays year month then (month, doy + 1)
    else monthOfDay year left (month + 1) (doy - monthDays year month)

/-- The date of a day number (R18). -/
def dateOf (d : Nat) : Date :=
  let r := d % 1461
  let base := 2000 + 4 * (d / 1461)
  let (year, doy) := if r < 366 then (base, r) else (base + 1 + (r - 366) / 365, (r - 366) % 365)
  let (m, day) := monthOfDay year 11 1 doy
  ⟨year, m, day⟩

/-- The weekday of a day number, 0 = Sunday (R18). -/
def weekdayOf (d : Nat) : Nat := (d + 6) % 7

/-- A date that exists in its year (R10, step 2). -/
def Date.valid (t : Date) : Bool :=
  decide (1 ≤ t.month ∧ t.month ≤ 12 ∧ 1 ≤ t.day ∧ t.day ≤ monthDays t.year t.month)

/-- A time of day that exists (R10, step 2). -/
def timeOfDayValid (hour minute second : Nat) : Bool := decide (hour ≤ 23 ∧ minute ≤ 59 ∧ second ≤ 59)

/-- Seconds since 2000-01-01 00:00:00 of a date and a time of day. -/
def secondsOf (t : Date) (hour minute second : Nat) : Nat :=
  dayNumber t * 86400 + hour * 3600 + minute * 60 + second

/-- The transition day of a rule in a year (R15). -/
def transitionDay (rule : TransRule) (year : Nat) : Nat :=
  if rule.ordinal ≤ 4 then
    let first := dayNumber ⟨year, rule.month, 1⟩
    first + (rule.weekday + 7 - weekdayOf first) % 7 + 7 * (rule.ordinal - 1)
  else
    let last := dayNumber ⟨year, rule.month, monthDays year rule.month⟩
    last - (weekdayOf last + 7 - rule.weekday) % 7

/-- The transition instant of a rule in a year, in standard seconds (R15). -/
def transitionInstant (rule : TransRule) (year : Nat) : Nat :=
  transitionDay rule year * 86400 + rule.hour * 3600

/-- The standard year that holds a standard second. -/
def yearOf (stdSec : Nat) : Nat := (dateOf (stdSec / 86400)).year

/-- DST in force at a standard second (R16). -/
def DstRule.inForceAt (r : DstRule) (stdSec : Nat) : Bool :=
  let s := transitionInstant r.start (yearOf stdSec)
  let e := transitionInstant r.stop (yearOf stdSec)
  if r.offset = 0 then false
  else if s < e then decide (s ≤ stdSec ∧ stdSec < e)
  else if e < s then !decide (e ≤ stdSec ∧ stdSec < s)
  else false

/-- A standard second is a transition instant of its year (R16). -/
def DstRule.isInstant (r : DstRule) (stdSec : Nat) : Bool :=
  stdSec == transitionInstant r.start (yearOf stdSec) || stdSec == transitionInstant r.stop (yearOf stdSec)

/-- The offset that civil time has, in seconds (R3). -/
def DstRule.seconds (r : DstRule) (inForce : Bool) : Nat := if inForce then r.offset * 60 else 0

/-- Civil seconds split into day number and second of day (R3). -/
def civilOf (civilSec eighth : Nat) : CivilTime := ⟨civilSec / 86400, civilSec % 86400, eighth⟩

/-- Civil seconds now (R3). -/
def State.civilSec (s : State) : Nat := s.time.stdSec + s.time.dst.seconds s.time.dstInForce

/-- Civil time now (R3). -/
def State.civil (s : State) : CivilTime := civilOf s.civilSec s.time.eighth

/-- Civil time in eighths, for the difference of a time move (R7). -/
def CivilTime.eighths (c : CivilTime) : Int := ((c.day * 86400 + c.sec) * 8 + c.eighth : Nat)

end Sys2Proof.Machine
end

