-- ==== Sys2Proof/Machine/Operands.lean ====
section
/-! DEFINITION. The value codes of 12.1, read and written, and the forms a request's operands take (R56, R188). -/

namespace Sys2Proof.Machine

/-! ### Codes written (12.1, 12.4, 12.5) -/

/-- Result code (12.1). -/
def Code.num : Code → Nat
  | .ok => 0 | .clamped => 1 | .unknownKind => 2 | .badParam => 3 | .range => 4 | .busy => 5 | .notReady => 6
  | .state => 7 | .tableFull => 8 | .noSession => 9 | .checksum => 10 | .order => 11
  | .referenceLocked => 12 | .contactActive => 13 | .storeFault => 14

/-- Class (12.1). -/
def Cls.num : Cls → Nat
  | .evacuate => 0 | .alert => 1 | .drill => 2 | .bell => 3 | .page => 4 | .message => 5

/-- Admission mode (12.1). -/
def Mode.num : Mode → Nat
  | .off => 0 | .emergencyOnly => 1 | .signals => 2 | .full => 3

/-- Building state (12.1). -/
def BState.num : BState → Nat
  | .quiet => 0 | .alerted => 1 | .prealert => 2 | .evacuating => 3 | .mustered => 4 | .standingDown => 5
  | .alarm => 6 | .alarmHushed => 7

/-- Line state (12.1). -/
def LineState.num : LineState → Nat
  | .unknown => 0 | .inStep => 1 | .advanceWait => 2 | .advancing => 3 | .holding => 4 | .stopped => 5
  | .fault => 6 | .disabled => 7

/-- Line kind (12.1). -/
def LineKind.num : LineKind → Nat
  | .disabled => 0 | .minute => 1 | .halfMinute => 2 | .coded => 3

/-- Time quality (12.1). -/
def Quality.num : Quality → Nat
  | .unset => 0 | .free => 1 | .locked => 2 | .holdover => 3

/-- Power state (12.1). -/
def PowerState.num : PowerState → Nat
  | .normal => 0 | .reserve => 1 | .retained => 2

/-- Start cause (12.1). -/
def StartCause.num : StartCause → Nat
  | .cold => 0 | .warmPower => 1 | .pin => 2 | .request => 3

/-- Section kind (12.1). -/
def SectKind.num : SectKind → Nat
  | .site => 1 | .groups => 2 | .patterns => 3 | .programs => 4 | .calendar => 5 | .lines => 6 | .drills => 7

/-- A section kind's place in the order of R166, from 0. -/
def SectKind.index : SectKind → Fin 7
  | .site => 0 | .groups => 1 | .patterns => 2 | .programs => 3 | .calendar => 4 | .lines => 5 | .drills => 6

/-- The seven section kinds in the order of R166. -/
def SectKind.inOrder : List SectKind := [.site, .groups, .patterns, .programs, .calendar, .lines, .drills]

/-- Session end cause (12.1). -/
def EndCause.num : EndCause → Nat
  | .duration => 0 | .playerDone => 1 | .pttRelease => 2 | .cancelled => 3 | .cut => 4 | .abandoned => 5
  | .noZones => 6 | .noPlayer => 7 | .noSource => 8 | .building => 9 | .power => 10 | .reconfigured => 11

/-- Undelivered reason (12.1). -/
def UndeliveredReason.num : UndeliveredReason → Nat
  | .notAdmitted => 0 | .faulted => 1 | .suppressed => 2 | .lost => 3 | .waiting => 4 | .deferredOut => 5

/-- Channel class (12.1). -/
def ChanClass.num : ChanClass → Nat
  | .ok => 0 | .openCircuit => 1 | .short => 2

/-- Cause of a building's transition (12.4, BUILDING_STATE). -/
def BuildingCause.num : BuildingCause → Nat
  | .contact => 0 | .spread => 1 | .sourcesCleared => 2 | .hush => 3 | .allClear => 4 | .drillStart => 5
  | .prealertEnd => 6 | .muster => 7 | .limit => 8 | .auto => 9 | .abort => 10 | .signalEnd => 11

/-- Cause of a change of a line's state (12.4, LINE_STATE). -/
def LineCause.num : LineCause → Nat
  | .decision => 0 | .grant => 1 | .caughtUp => 2 | .heldOut => 3 | .fault => 4 | .probeOk => 5
  | .setDisplay => 6 | .stop => 7 | .run => 8 | .power => 9 | .load => 10

/-- Correction decision (12.4, LINE_DECISION). -/
def Verdict.num : Verdict → Nat
  | .inStep => 0 | .advance => 1 | .hold => 2

/-- Cause of a time move (12.4, TIME_EVENT). -/
def MoveCause.num : MoveCause → Nat
  | .telegramStep => 0 | .hostStep => 1 | .firstSet => 2 | .dstStart => 3 | .dstEnd => 4 | .dstRule => 5

/-- DST change (12.4, TIME_EVENT). -/
def DstChange.num : DstChange → Nat
  | .unchanged => 0 | .nowInForce => 1 | .noLonger => 2

/-- Cause of a change of power state (12.4, POWER_STATE). -/
def PowerCause.num : PowerCause → Nat
  | .mainsLost => 0 | .frequency => 1 | .mainsReturned => 2 | .batteryLow => 3

/-- Log outcome (12.4). -/
def LogOutcome.num : LogOutcome → Nat
  | .stillOpen => 0 | .completed => 1 | .timedOut => 2 | .aborted => 3 | .interruptedByAlarm => 4
  | .alarmCleared => 5 | .powerLost => 6

/-- Section outcome (12.4). -/
def SectOutcome.num : SectOutcome → Nat
  | .installed => 0 | .clamped => 1 | .absent => 2 | .entryBad => 3 | .noStore => 4 | .checksum => 5
  | .refused _ _ => 6 | .noImage => 7

/-- Session state (12.3, ANNOUNCE result). -/
def SessState.num : SessState → Nat
  | .queued => 0 | .active => 1 | .paused => 2

/-- Mains state (12.5). -/
def MainsState.num : MainsState → Nat
  | .absent => 0 | .qualifying => 1 | .present => 2

/-- Timer kind (12.5); none is 0. -/
def TimerKind.num : TimerKind → Nat
  | .prealert => 1 | .limit => 2 | .auto => 3

/-- Polarity (12.3). -/
def Polarity.num : Polarity → Nat
  | .a => 0 | .b => 1

/-- A Boolean field. -/
def bitNum (b : Bool) : Nat := if b then 1 else 0

/-- A number field with 255 for none (12.1). -/
def orNone {n : Nat} : Option (Fin n) → Nat
  | some i => i.val
  | none => 255

/-! ### Codes read -/

/-- A class by its code. -/
def clsOf : Nat → Option Cls
  | 0 => some .evacuate | 1 => some .alert | 2 => some .drill | 3 => some .bell | 4 => some .page
  | 5 => some .message | _ => none

/-- An admission mode by its code. -/
def modeOf : Nat → Option Mode
  | 0 => some .off | 1 => some .emergencyOnly | 2 => some .signals | 3 => some .full | _ => none

/-- A section kind by its code. -/
def sectOf : Nat → Option SectKind
  | 1 => some .site | 2 => some .groups | 3 => some .patterns | 4 => some .programs | 5 => some .calendar
  | 6 => some .lines | 7 => some .drills | _ => none

/-- A line kind by its code. -/
def lineKindOf : Nat → Option LineKind
  | 0 => some .disabled | 1 => some .minute | 2 => some .halfMinute | 3 => some .coded | _ => none

/-- A polarity by its code. -/
def polarityOf : Nat → Option Polarity
  | 0 => some .a | 1 => some .b | _ => none

/-! ### Targets (R56) -/

/-- A target: a group, resolved through the group table, or a mask. -/
inductive Target where
  | group (g : ZoneGroupId)
  | mask (m : ZoneSet)
  deriving DecidableEq, Repr

/-- A target as its three fields give it; none is BAD_PARAM (R56). -/
def targetOf (kind group : Nat) (mask : ZoneSet) : Option Target :=
  match kind with
  | 0 => (asFin 128 group).map .group
  | 1 => some (.mask mask)
  | _ => none

/-- The zone set a target names now (R56). -/
def State.resolve (s : State) : Target → ZoneSet
  | .group g => s.router.groups.at g
  | .mask m => m

/-- A value clamped into a range, with whether it was clamped. -/
def clampTo (lo hi v : Nat) : Nat × Bool :=
  if v < lo then (lo, true) else if hi < v then (hi, true) else (v, false)

/-! ### What a request is answered (R175) -/

/-- An answer: the result code, the result detail and the bytes of the result area, filled up to 16 with 0
(R188). -/
structure Answer where
  code   : Code
  detail : Word
  result : List Byte
  deriving DecidableEq, Repr

/-- A refusal, or any answer with no result. -/
def Answer.plain (c : Code) : Answer := ⟨c, 0, []⟩

/-- OK, or CLAMPED where a parameter was clamped. -/
def okOr (clamped : Bool) : Code := if clamped then .clamped else .ok

end Sys2Proof.Machine
end

