-- ==== Sys2Proof/Machine/Flags.lean ====
section
/-! DEFINITION. The NOTICE and NOTICE_ENABLE registers, the interrupt output, and what the host reads (11.8, 12.2). -/

namespace Sys2Proof.Machine

/-- The six notices, by their bit of NOTICE (12.2). -/
inductive Notice where
  | cell | page | alarm | fault | power | start
  deriving DecidableEq, Repr

/-- A notice's bit (12.2). -/
def Notice.bit : Notice → Nat
  | .cell => 0 | .page => 1 | .alarm => 2 | .fault => 3 | .power => 4 | .start => 5

/-- A notice is set; a bit already set stays set (R184). -/
def State.notify (n : Notice) : State → State :=
  State.onRh fun r => { r with notice := Mask.add r.notice n.bit }

/-- The interrupt output: asserted while NOTICE and NOTICE_ENABLE have a set bit in common (R184), and
deasserted where the host bus is not served (R162, R164). -/
def State.interrupt (s : State) : Bool := s.busServed && (s.rh.notice &&& s.rh.noticeEnable) != 0

/-- A host write to NOTICE clears each bit written as 1; bits outside the six are dropped (R184). -/
def ReqHandler.clearNotices (value : Word) (r : ReqHandler) : ReqHandler :=
  { r with notice := r.notice &&& ~~~(value.truncate 6) }

/-- A host write to NOTICE_ENABLE; bits outside the six are dropped (R184). -/
def ReqHandler.enableNotices (value : Word) (r : ReqHandler) : ReqHandler :=
  { r with noticeEnable := value.truncate 6 }

/-- What a host read of a word address returns (R162, R171, R185, 12.2): common memory, the four registers,
0 above them, and 0 everywhere while the host bus is not served. -/
def State.hostRead (s : State) (address : BitVec 14) : Word :=
  if !s.busServed then 0
  else if address.toNat < 0x2000 then s.mem.readWord (2 * address.toNat)
  else match address.toNat with
    | 0x2000 => Config.ident
    | 0x2001 => s.rh.notice.zeroExtend 16
    | 0x2002 => s.rh.noticeEnable.zeroExtend 16
    | 0x2003 => s.rh.sweepCount
    | _ => 0

/-- Host writes to common memory, in turn; they are dropped while the host bus is not served (R162, R171). They come
with EIGHTH_END and SWEEP_WRITE alone, so one between two other events of an eighth is no run (log entry 14). -/
def State.hostWrites (s : State) (ws : List MemWrite) : State :=
  if s.busServed then s.each ws fun w => State.onMem fun m => m.write (2 * w.word.toNat) (wordBytes w.value)
  else s

end Sys2Proof.Machine
end

