-- ==== Sys2Proof/Machine/Reports.lean ====
section
/-! DEFINITION. Report records and where they go: hand-over, the ring of report pages, the holding queue and the dropped count (11.4 to 11.6, 12.4). -/

namespace Sys2Proof.Machine

/-! ### Records as bytes (12.4) -/

/-- The code of a record's kind (12.4). -/
def Report.kind : Report → Nat
  | .entryFired .. => 1 | .entryMissed .. => 2 | .groupSkipped .. => 3 | .sessionEnd .. => 4
  | .sessionUndelivered .. => 5 | .buildingState .. => 6 | .evacuationResult .. => 7 | .lineState .. => 8
  | .lineDecision .. => 9 | .channelState .. => 10 | .qualityChange .. => 11 | .timeMoved .. => 11
  | .dstDisagreement => 11 | .powerChange .. => 12 | .started .. => 13

/-- One byte from a number. -/
def u8 (v : Nat) : List Byte := leBytes 1 v

/-- The outcome code of ENTRY_FIRED (12.4). -/
def FireOutcome.num : FireOutcome → Nat
  | .session _ => 0 | .suppressed => 1 | .tableFull => 2 | .noZones => 3 | .quiet => 4

/-- The session of a firing, or 255. -/
def FireOutcome.sess : FireOutcome → Nat
  | .session n => n.val
  | _ => 255

/-- The seven section outcomes, 4 bits each, SITE in bits 0..3 (12.4). -/
def packOutcomes (o : Tab SectOutcome 7) : Nat :=
  ((allOf 7).map fun i => (o.at i).num * 16 ^ i.val).sum

/-- The code and position of the lowest-coded REFUSED section; 0 and 0 where none is REFUSED (12.4, R188,
log entry 8). -/
def firstRefused (o : Tab SectOutcome 7) : Nat × Nat :=
  match (allOf 7).find? fun i => match o.at i with | .refused _ _ => true | _ => false with
  | some i => match o.at i with
    | .refused c p => (c.num, p.toNat)
    | _ => (0, 0)
  | none => (0, 0)

/-- The payload of a record (12.4). -/
def Report.payload : Report → List Byte
  | .entryFired g ref late out supp resume =>
    u8 g.val ++ u8 ref.program.val ++ u8 ref.index ++ leBytes 3 late ++ u8 out.num ++ u8 out.sess ++
      u8 (supp.toNat + 128 * bitNum resume)
  | .entryMissed g ref late => u8 g.val ++ u8 ref.program.val ++ u8 ref.index ++ leBytes 3 late
  | .groupSkipped g day prog rem passed => u8 g.val ++ leBytes 2 day ++ u8 (orNone prog) ++ u8 rem ++ u8 passed
  | .sessionEnd n _ cause ever => u8 (n.val + 16 * cause.num) ++ maskBytes ever
  | .sessionUndelivered n _ reason zones => u8 (n.val + 16 * reason.num) ++ maskBytes zones
  | .buildingState b old new cause => u8 b.val ++ u8 old.num ++ u8 new.num ++ u8 cause.num
  | .evacuationResult serial b prof out t =>
    wordBytes serial ++ u8 b.val ++ u8 (orNone prof) ++ u8 out.num ++ leBytes 2 (t.getD 0) ++ u8 (bitNum t.isSome)
  | .lineState l old new cause => u8 l.val ++ u8 old.num ++ u8 new.num ++ u8 cause.num
  | .lineDecision l d => u8 l.val ++ leBytes 2 d.lag ++ leBytes 2 d.lead ++ u8 d.verdict.num ++ leBytes 3 d.expected
  | .channelState k old new r => u8 k.val ++ u8 (k.val - 8) ++ u8 old.num ++ u8 new.num ++ leBytes 2 r
  | .qualityChange old new => u8 0 ++ u8 old.num ++ u8 new.num
  | .timeMoved cause dst diff => u8 1 ++ u8 cause.num ++ u8 dst.num ++ leSigned 6 diff
  | .dstDisagreement => u8 2
  | .powerChange old new cause freq => u8 old.num ++ u8 new.num ++ u8 cause.num ++ leBytes 2 freq
  | .started cause valid dst power out =>
    u8 (cause.num + 4 * bitNum valid + 8 * bitNum dst + 16 * power.num) ++ leBytes 4 (packOutcomes out) ++
      u8 (firstRefused out).1 ++ leBytes 2 (firstRefused out).2

/-- Bits 4..6 of the flags: the class, for SESSION_END and SESSION_UNDELIVERED (12.4). -/
def Report.classBits : Report → Nat
  | .sessionEnd _ c _ _ => 16 * c.num
  | .sessionUndelivered _ c _ _ => 16 * c.num
  | _ => 0

/-- BUILDING_STATE and POWER_STATE are urgent, and CHANNEL_STATE is when its new class is OPEN or SHORT
(R177). -/
def Report.urgent : Report → Bool
  | .buildingState .. => true
  | .powerChange .. => true
  | .channelState _ _ new _ => new != .ok
  | _ => false

/-- The notice that handing the record over sets (R184). -/
def Report.notice : Report → Option Notice
  | .buildingState .. => some .alarm
  | .channelState .. => some .fault
  | .lineState _ _ new _ => if new = .fault then some .fault else none
  | .powerChange .. => some .power
  | .started .. => some .start
  | _ => none

/-- The 16 bytes of a record (12.4). -/
def Rec.bytes (r : Rec) : List Byte :=
  u8 r.report.kind ++ u8 (bitNum r.urgent + 2 * r.quality.num + r.report.classBits) ++ leBytes 4 r.sec ++
    u8 r.eighth ++ fit 9 r.report.payload

/-! ### Pages (R178 to R180) -/

/-- The 16 bytes of a page header; unassigned bytes are 0 (12.4, R188). -/
def pageHeader (state seq count dropped : Nat) : List Byte :=
  leBytes 2 state ++ leBytes 2 seq ++ leBytes 2 count ++ leBytes 2 0 ++ leBytes 4 dropped ++ leBytes 4 0

/-- The current page's header is rewritten from the Writer's own record of it, with a page state. -/
def State.writePageHeader (c : CurPage) (state : Nat) : State → State :=
  State.onMem fun m => m.write (pageBase c.page) (pageHeader state c.seq.toNat c.count c.dropped)

/-- The next page, when its state word reads FREE, is opened (R178, steps 1 to 3); otherwise none. -/
def State.openPage (s : State) : Option State :=
  if s.mem.readWord (pageBase s.rh.nextPage) = 0 then
    let c : CurPage := ⟨s.rh.nextPage, s.rh.pageSeq, 0, s.rh.dropped, none⟩
    some ((s.writePageHeader c 1).onRh fun r =>
      { r with dropped := 0, pageSeq := r.pageSeq + 1, current := some c, nextPage := r.nextPage + 1 })
  else none

/-- The current page is closed (R179). -/
def State.closePage (c : CurPage) (s : State) : State :=
  ((s.writePageHeader c 2).onRh fun r => { r with current := none }).notify .page

/-- A record is appended to the current page `c`: the slot, then the header; the page is closed when it is
full or the record is urgent (R178, R179). -/
def State.appendRec (s : State) (c : CurPage) (r : Rec) : State :=
  let c' : CurPage := { c with count := c.count + 1, first := some (c.first.getD s.now) }
  let s1 := (s.onMem fun m => m.write (pageBase c.page + 16 + 16 * c.count) r.bytes).writePageHeader c' 1
  if c'.count ≥ Config.pageSlots || r.urgent then s1.closePage c'
  else s1.onRh fun h => { h with current := some c' }

/-- The page a record goes into: the current one, or the next one when it can be opened. -/
def State.withPage (s : State) : Option (State × CurPage) :=
  match s.rh.current with
  | some c => some (s, c)
  | none =>
    match s.openPage with
    | some s' => s'.rh.current.map fun c => (s', c)
    | none => none

/-- Records are placed, oldest first, while a page takes them; what is left could not be placed (R178,
R179). -/
def State.place : List Rec → State → State × List Rec
  | [], s => (s, [])
  | r :: rs, s =>
    match s.withPage with
    | some (s', c) => State.place rs (s'.appendRec c r)
    | none => (s, r :: rs)

/-- The oldest routine record removed, if there is one (R181). -/
def dropRoutine : List Rec → Option (List Rec)
  | [] => none
  | r :: rs => if r.urgent then (dropRoutine rs).map (r :: ·) else some rs

/-- A record joins the holding queue, with what a full queue drops and the dropped count (R181). That the count has no
end, headers showing its low 32 bits, is the model's choice (log entry 19). -/
def ReqHandler.enqueue (r : Rec) (h : ReqHandler) : ReqHandler :=
  if h.queue.length < Config.queueLimit then { h with queue := h.queue ++ [r] }
  else
    let h := { h with dropped := h.dropped + 1 }
    if r.urgent then
      match dropRoutine h.queue with
      | some q => { h with queue := q ++ [r] }
      | none => h
    else h

/-- The next page is examined and the holding queue drains into it (R178, R180). -/
def State.drainQueue (s : State) : State :=
  let (s1, rest) := State.place s.rh.queue s
  s1.onRh fun h => { h with queue := rest }

/-- A record is placed: in the current page; or, the queue drained first, in the next page; or else in the
queue (R178, R181). -/
def State.placeRec (r : Rec) (s : State) : State :=
  match s.rh.current with
  | some c => s.appendRec c r
  | none =>
    let s1 := s.drainQueue
    if s1.rh.queue.isEmpty then
      match s1.withPage with
      | some (s2, c) => s2.appendRec c r
      | none => s1.onRh (ReqHandler.enqueue r)
    else s1.onRh (ReqHandler.enqueue r)

/-- A block hands a record to the Report Writer (R177): its notice is set, and it is placed, held or
dropped. Before the START record and after RETAINED the Writer takes none. -/
def State.report (r : Report) (s : State) : State :=
  if s.rh.writerOn then
    let s1 := match r.notice with
      | some n => s.notify n
      | none => s
    s1.placeRec ⟨r, r.urgent, s.time.quality, s.time.stdSec, s.time.eighth⟩
  else s

end Sys2Proof.Machine
end

