-- ==== Sys2Proof/Machine/Sessions.lean ====
section
/-! DEFINITION. Sessions, zone judgement, players, generators and the end of a session (chapters 5 and 6), as shared operations. -/

namespace Sys2Proof.Machine

/-! ### Classes and admission -/

/-- PAGE and MESSAGE may be held (chapter 5). -/
def Cls.holdable : Cls → Bool
  | .page | .message => true
  | .evacuate | .alert | .drill | .bell => false

/-- EVACUATE, ALERT and DRILL share generators and cut lower classes (R100). -/
def Cls.emergency : Cls → Bool
  | .evacuate | .alert | .drill => true
  | .bell | .page | .message => false

/-- BELL and MESSAGE stay out of a building that is not QUIET, and are not made outside NORMAL (R71, R92). -/
def Cls.yields : Cls → Bool
  | .bell | .message => true
  | .evacuate | .alert | .drill | .page => false

/-- A lower class number is a higher priority (0.4). -/
def Cls.above (a b : Cls) : Bool := decide (a.num < b.num)

/-- The classes an effective mode takes in (R57). -/
def Mode.takes (m : Mode) (c : Cls) : Bool :=
  match m with
  | .off => false
  | .emergencyOnly => decide (c.num ≤ 2)
  | .signals => decide (c.num ≤ 3)
  | .full => true

/-- One of two sessions ranks first: higher priority, and between equal classes the lower creation sequence
(R73, R75). -/
def Session.ranksBefore (a b : Session) : Bool :=
  a.cls.above b.cls || (a.cls == b.cls && decide (a.seq < b.seq))

/-! ### Zone sets of a session -/

/-- Where a requested zone stands (R69), refusals apart. -/
inductive Standing where
  | connected | waiting | deferred | held | lost
  deriving DecidableEq, Repr

/-- A zone taken out of the five sets. -/
def Session.without (x : Session) (z : ZoneId) : Session :=
  { x with
    connected := Mask.del x.connected z, waiting := Mask.del x.waiting z, deferred := Mask.del x.deferred z,
    held := Mask.del x.held z, lost := Mask.del x.lost z }

/-- A zone moved to one set, out of the others; a connected zone joins ever-connected (R69). -/
def Session.moveTo (x : Session) (p : Standing) (z : ZoneId) : Session :=
  let y := x.without z
  match p with
  | .connected => { y with connected := Mask.add y.connected z, ever := Mask.add y.ever z }
  | .waiting => { y with waiting := Mask.add y.waiting z }
  | .deferred => { y with deferred := Mask.add y.deferred z }
  | .held => { y with held := Mask.add y.held z }
  | .lost => { y with lost := Mask.add y.lost z }

/-- Whether a session has a claim on a zone: connected, held elsewhere, waiting or deferred (R76). -/
def Session.claims (x : Session) (z : ZoneId) : Bool :=
  Mask.has (x.connected ||| x.held ||| x.waiting ||| x.deferred) z

/-- A session is marked for settling (R91). -/
def State.touch (n : SessId) : State → State := State.onWork fun w => { w with touched := insertNum n w.touched }

/-- Session n's zone z is moved to one set. -/
def State.moveZone (n : SessId) (z : ZoneId) (p : Standing) (s : State) : State :=
  (s.onSess n fun x => x.moveTo p z).touch n

/-- Session n connects on zone z (R72). -/
def State.connect (n : SessId) (z : ZoneId) (s : State) : State :=
  (s.moveZone n z .connected).onZone z fun r => { r with occupant := some n }

/-- Why a zone refuses a class now, the origin's hand-over apart (R71). -/
def State.refusal (s : State) (c : Cls) (z : ZoneId) : Option UndeliveredReason :=
  if c.yields && s.router.view.at (s.zone z).building != .quiet then some .suppressed
  else if !(s.zone z).effective.takes c then some .notAdmitted
  else if (s.zone z).fault then some .faulted
  else none

/-! ### Judgement of a zone (R72 to R74) -/

/-- The occupant `o` of zone z is to be held there (R73). -/
def State.holdOccupant (o : SessId) (z : ZoneId) (s : State) : State :=
  match (s.zone z).held with
  | none => (s.moveZone o z .held).onZone z fun r => { r with held := some o }
  | some h =>
    match s.sess o, s.sess h with
    | some so, some sh =>
      if so.ranksBefore sh then
        ((s.moveZone o z .held).moveZone h z .waiting).onZone z fun r => { r with held := some o }
      else s.moveZone o z .waiting
    | _, _ => (s.moveZone o z .held).onZone z fun r => { r with held := some o }

/-- Session n meets the occupant of zone z (R72 to R74); `mayDefer` is false for the judgement at the defer limit (R77). -/
def State.meetOccupant (mayDefer : Bool) (n : SessId) (x : Session) (z : ZoneId) (s : State) : State :=
  match (s.zone z).occupant with
  | none => s.connect n z
  | some o =>
    match s.sess o with
    | none => s.connect n z
    | some y =>
      if x.cls.above y.cls then
        if mayDefer && x.cls == .bell && x.deferLimit != 0 && y.cls.holdable then s.moveZone n z .deferred
        else if y.cls.holdable then (s.holdOccupant o z).connect n z
        else (s.moveZone o z .lost).connect n z
      else if x.cls.holdable then s.moveZone n z .waiting
      else s.moveZone n z .lost

/-- Session n is judged on zone z (R64, R72 to R74). A zone at fault admits no class at judgement (R64). A new session has
its zones at fault refused before (R71), so that only the defer limit (R77) judges one; that n then loses it, as a
candidate that fails does under R75, is the model's choice (log entry 59). -/
def State.judge (mayDefer : Bool) (n : SessId) (z : ZoneId) (s : State) : State :=
  match s.sess n with
  | none => s
  | some x => if (s.zone z).fault then s.moveZone n z .lost else s.meetOccupant mayDefer n x z

/-! ### Release of a zone (R75) -/

/-- Session n is a candidate for zone z: z is in its waiting set, or it is ACTIVE with z deferred. -/
def State.isCandidate (s : State) (z : ZoneId) (n : SessId) : Bool :=
  match s.sess n with
  | some x => Mask.has x.waiting z || (x.state == .active && Mask.has x.deferred z)
  | none => false

/-- A candidate's test (R75 step 2). -/
def State.passes (s : State) (z : ZoneId) (n : SessId) : Bool :=
  match s.sess n with
  | some x => (s.refusal x.cls z).isNone
  | none => false

/-- The candidate that ranks first (R75 step 3). -/
def State.bestOf (s : State) : List SessId → Option SessId
  | [] => none
  | n :: ns =>
    match s.bestOf ns with
    | none => some n
    | some m =>
      match s.sess n, s.sess m with
      | some x, some y => if y.ranksBefore x then some m else some n
      | _, _ => some n

/-- Zone z is offered (R75 steps 2 to 4). -/
def State.offer (z : ZoneId) (s : State) : State :=
  let cands := (allOf 16).filter (s.isCandidate z)
  let s1 := s.each (cands.filter fun n => !s.passes z n) fun n => State.moveZone n z .lost
  match s.bestOf (cands.filter (s.passes z)) with
  | some n => s1.connect n z
  | none => s1

/-- Zone z, which its occupant has left, is released (R75); one whose fault flag is set is not. -/
def State.releaseZone (z : ZoneId) (s : State) : State :=
  if (s.zone z).fault then s
  else match (s.zone z).held with
    | some h => (s.onZone z fun r => { r with held := none }).connect h z
    | none => s.offer z

/-! ### Generators (chapter 6) -/

/-- A generator is PLAYING while it has a user. -/
def Generator.playing (g : Generator) : Bool := !g.users.isEmpty

/-- The generator a session has. -/
def State.genOf (s : State) (n : SessId) : Option GenId := (allOf 4).find? fun g => (s.gen g).users.contains n

/-- The pattern of a session with a tone source. -/
def Session.pattern (x : Session) : Option PatternId :=
  match x.source with
  | .tone p => some p
  | _ => none

/-- A session becomes ACTIVE (R78). -/
def State.activate (n : SessId) (s : State) : State :=
  s.onSess n fun x => { x with state := .active, activeAt := some s.now }

/-- Session n joins generator g as a further user. -/
def State.joinGen (g : GenId) (n : SessId) (s : State) : State :=
  (s.onGen g fun r => { r with users := insertNum n r.users }).activate n

/-- A session in the wait list shares a new grant of class c and pattern p (R102). -/
def State.sharesGrant (s : State) (c : Cls) (p : PatternId) (n : SessId) : Bool :=
  match s.sess n with
  | some x => x.cls == c && c.emergency && x.pattern == some p
  | none => false

/-- A FREE generator is granted to session n (R99), and sharers in the wait list join it (R102). -/
def State.grantGen (g : GenId) (n : SessId) (s : State) : State :=
  match s.sess n with
  | none => s
  | some x =>
    match x.source with
    | .tone p =>
      let s1 := (s.onGen g fun _ =>
        { users := [n], cls := some x.cls, pattern := some p, copy := s.tone.patterns.at p, begun := false,
          step := 0, onPhase := true, left := 0, divider := none }).activate n
      let joiners := s1.tone.waitList.filter (s1.sharesGrant x.cls p)
      (s1.onTone fun t => { t with waitList := t.waitList.filter fun m => !s1.sharesGrant x.cls p m }).each
        joiners (State.joinGen g)
    | _ => s

/-- A generator that has become FREE is served to the wait list (R102). -/
def State.serveGen (g : GenId) (s : State) : State :=
  match s.tone.waitList with
  | [] => s
  | n :: rest => (s.onTone fun t => { t with waitList := rest }).grantGen g n

/-- Session n leaves generator g (R99); a generator being taken by a cut is not served (R101). -/
def State.leaveGen (n : SessId) (g : GenId) (s : State) : State :=
  let users := (s.gen g).users.filter (· != n)
  if users.isEmpty then
    let s1 := s.onGen g fun _ => Generator.idle
    if s.work.cutGen = some g then s1 else s1.serveGen g
  else s.onGen g fun r => { r with users := users }

/-- The wait list with session n in its place: by class, then by creation sequence (R102). -/
def State.waitInsert (s : State) (n : SessId) : List SessId → List SessId
  | [] => [n]
  | m :: ms =>
    match s.sess n, s.sess m with
    | some x, some y => if x.ranksBefore y then n :: m :: ms else m :: s.waitInsert n ms
    | _, _ => m :: s.waitInsert n ms

/-! ### Players (5.8) -/

/-- A MESSAGE with a player source: the player. -/
def Session.pausablePlayer (x : Session) : Option PlayerId :=
  match x.source with
  | .player p _ _ => if x.cls = .message then some p else none
  | _ => none

/-- Every zone it has is parked under a higher session (R82). -/
def Session.parked (x : Session) : Bool := x.connected == 0 && x.held != 0

/-- The pause of session n is judged (R82). -/
def State.judgePause (n : SessId) (s : State) : State :=
  match s.sess n with
  | none => s
  | some x =>
    match x.pausablePlayer with
    | none => s
    | some p =>
      if x.state = .active && x.parked then
        (s.onSess n fun y => { y with state := .paused, pausedAt := some s.now }).onPlayer p
          fun r => { r with pause := true }
      else if x.state = .paused && !x.parked then
        (s.onSess n fun y => { y with state := .active, pausedAt := none }).onPlayer p
          fun r => { r with pause := false }
      else s

/-- A repetition is cued: the message number on the cue bus and one strobe (R81). -/
def Player.cue (message : Byte) (now : Nat) (r : Player) : Player :=
  { r with cueBus := message, strobeAt := some now, started := false }

/-- Player p is granted to session n (R81); a MESSAGE whose zones are all parked becomes PAUSED after its
strobe (R82). -/
def State.grantPlayer (p : PlayerId) (n : SessId) (s : State) : State :=
  match s.sess n with
  | none => s
  | some x =>
    match x.source with
    | .player _ message repeats =>
      ((s.onPlayer p fun r =>
        { r with current := some n, repsLeft := repeats - 1, pause := false }.cue message s.now).activate
          n).judgePause n
    | _ => s

/-- The head of player p's queue, if any, is granted (R80). -/
def State.servePlayer (p : PlayerId) (s : State) : State :=
  match (s.player p).queue with
  | [] => s
  | n :: rest => (s.onPlayer p fun r => { r with queue := rest }).grantPlayer p n

/-- Player p has lost its current session; a player passed to an arriving session is not served (R80). -/
def State.leavePlayer (p : PlayerId) (s : State) : State :=
  let s1 := s.onPlayer p fun r => { r with current := none, strobeAt := none, started := false, repsLeft := 0,
                                           pause := false }
  if s.work.cutPlayer = some p then s1 else s1.servePlayer p

/-- A player's queue with session n in its place: by class, then by arrival (R80). -/
def State.queueInsert (s : State) (n : SessId) : List SessId → List SessId
  | [] => [n]
  | m :: ms =>
    match s.sess n, s.sess m with
    | some x, some y => if x.cls.above y.cls then n :: m :: ms else m :: s.queueInsert n ms
    | _, _ => m :: s.queueInsert n ms

/-- A request of class c for player p would be refused (R80). That a request which cuts the current session is not
refused for a queue of 8, though R42 has no such exception, is the model's choice (log entry 64). -/
def State.playerRefuses (s : State) (p : PlayerId) (c : Cls) : Bool :=
  match (s.player p).current with
  | none => false
  | some m =>
    match s.sess m with
    | none => false
    | some y => !c.above y.cls && decide (8 ≤ (s.player p).queue.length)

/-! ### The end of a session (R89, R90) -/

/-- The requested zones never connected (R90). -/
def Session.undelivered (x : Session) : ZoneSet := x.requested &&& ~~~x.ever

/-- The undelivered zones by reason, in the order of R90. -/
def Session.undeliveredBy (x : Session) : List (UndeliveredReason × ZoneSet) :=
  [(.notAdmitted, x.refNotAdmitted), (.faulted, x.refFaulted), (.suppressed, x.refSuppressed),
   (.lost, x.lost), (.waiting, x.waiting), (.deferredOut, x.deferred)].map
    fun r => (r.1, x.undelivered &&& r.2)

/-- SESSION_END and the SESSION_UNDELIVERED records of a session that ends (R90). -/
def State.reportEnd (n : SessId) (x : Session) (cause : EndCause) (s : State) : State :=
  (s.report (.sessionEnd n x.cls cause x.ever)).each (x.undeliveredBy.filter fun r => r.2 != 0)
    fun r => State.report (.sessionUndelivered n x.cls r.1 r.2)

/-- The controller is told of the end of building b's session n (R89 step 7, R108). A session its record does
not name is dealt with where it was asked for. -/
def State.tellBuilding (b : BuildingId) (n : SessId) (cause : EndCause) (s : State) : State :=
  if (s.building b).signal ≠ some n then s
  else match cause with
    | .building => s
    | .power => s
    | _ =>
      if (s.building b).state = .standingDown then
        (s.onBuilding b fun r => { r with signal := none }).onWork
          fun w => { w with standDowns := w.standDowns ++ [b] }
      else s.onBuilding b fun r => { r with signal := none, wanted := r.wanted || cause == .cut }

/-- Session n's source is returned (R89 step 5). -/
def State.returnSource (n : SessId) (x : Session) (s : State) : State :=
  match x.source with
  | .tone _ =>
    match s.genOf n with
    | some g => s.leaveGen n g
    | none => s
  | .player p _ _ => if (s.player p).current = some n then s.leavePlayer p else s
  | .console _ => s

/-- The consoles drop session n (R84, R89 step 5). -/
def State.dropFromConsoles (n : SessId) (s : State) : State :=
  s.each ((allOf 2).filter fun c => (s.console c).session = some n) fun c =>
    State.onConsole c fun r => { r with session := none }

/-- Session n leaves the queues, the held slots and the table (R89 steps 1 to 3). Its record is taken out at
once: it takes no part in any offer, and no session is created before its end is whole. -/
def State.unlist (n : SessId) (x : Session) (s : State) : State :=
  (((s.onTone fun t => { t with waitList := t.waitList.filter (· != n) }).onRouter fun r =>
    { r with players := r.players.map fun p => { p with queue := p.queue.filter (· != n) } }).each
      (Mask.members x.held) fun z => State.onZone z fun r =>
        if r.held = some n then { r with held := none } else r).setSess n none

/-- The connected zones of an ended session are released in ascending order (R89 step 4). -/
def State.releaseAll (n : SessId) (x : Session) (s : State) : State :=
  s.each (Mask.members x.connected) fun z s =>
    if (s.zone z).occupant = some n then
      (s.onZone z fun r => { r with occupant := none }).releaseZone z
    else s

/-- One session's end, steps 1 to 7 of R89, without the settling of the sessions it touched. -/
def State.endOne (n : SessId) (cause : EndCause) (s : State) : State :=
  match s.sess n with
  | none => s
  | some x =>
    let s1 := (((s.unlist n x).releaseAll n x).returnSource n x).dropFromConsoles n
    let s2 := (s1.reportEnd n x cause).onWork fun w => { w with ended := true }
    match x.origin with
    | .building b _ => s2.tellBuilding b n cause
    | _ => s2

/-- Session n has nothing left (R91 step 1). -/
def State.spent (s : State) (n : SessId) : Bool :=
  match s.sess n with
  | some x => (x.connected ||| x.waiting ||| x.deferred ||| x.held) == 0
  | none => false

/-- The next of the touched sessions to end NO_ZONES: ascending, and `last` only when it is the only one
(R70 step 6). -/
def State.nextSpent (s : State) (last : Option SessId) : Option SessId :=
  let spent := s.work.touched.filter s.spent
  match spent.find? fun n => some n != last with
  | some n => some n
  | none => spent.head?

/-- The touched sessions are settled (R91), in rounds: every pause is judged, ascending, and then the first session
with nothing left ends NO_ZONES, whole, before the next round. That pauses come first, and the order of the ends, is
the model's choice (log entry 22). Each end takes a session out of a table of 16, so 17 rounds are enough. -/
def State.settleFrom (last : Option SessId) : Nat → State → State
  | 0, s => s
  | k + 1, s =>
    let s1 := s.each s.work.touched State.judgePause
    match s1.nextSpent last with
    | none => s1.onWork fun w => { w with touched := [] }
    | some n => State.settleFrom last k (s1.endOne n .noZones)

/-- The touched sessions are settled (R91). -/
def State.settle (s : State) : State := s.settleFrom none 17

/-- Session n ends with a cause, whole, with the settling that follows (R89). -/
def State.endSession (n : SessId) (cause : EndCause) (s : State) : State := (s.endOne n cause).settle

/-- Sessions ended by one event end one after another (R89). -/
def State.endSessions (ns : List SessId) (cause : EndCause) (s : State) : State :=
  s.each ns fun n => State.endSession n cause

/-- The sessions in the table of which `p` holds, ascending. -/
def State.sessionsWith (s : State) (p : Session → Bool) : List SessId :=
  (allOf 16).filter fun n => match s.sess n with
    | some x => p x
    | none => false

/-! ### Asking for a generator or a player -/

/-- The FREE generator that R100 step 2 gives a class. -/
def State.freeGenFor (s : State) (c : Cls) : Option GenId :=
  if c.emergency then
    if (s.gen 3).playing then (allOf 4).find? fun g => !(s.gen g).playing else some 3
  else (allOf 4).find? fun g => !(s.gen g).playing && g != 3

/-- The generator that a cut by class c takes: of the lowest priority below c, and of those the
highest-numbered (R100 step 3). -/
def State.cuttableGen (s : State) (c : Cls) : Option GenId :=
  (allOf 4).foldl (fun best g =>
    match (s.gen g).cls with
    | none => best
    | some d =>
      if (s.gen g).playing && c.above d then
        match best with
        | none => some g
        | some h => if ((s.gen h).cls.map Cls.num).getD 0 ≤ d.num then some g else some h
      else best) none

/-- The generator that session n may share (R100 step 1). -/
def State.sharedGen (s : State) (c : Cls) (p : PatternId) : Option GenId :=
  if c.emergency then
    (allOf 4).find? fun g => (s.gen g).playing && (s.gen g).cls == some c && (s.gen g).pattern == some p
  else none

/-- Generator g is taken for session n: its users end CUT, ascending, and it is granted (R101). -/
def State.takeGen (g : GenId) (n : SessId) (s : State) : State :=
  (((s.onWork fun w => { w with cutGen := some g }).endSessions (s.gen g).users .cut).onWork
    fun w => { w with cutGen := none }).grantGen g n

/-- Session n asks the Tone Bank for a generator (R100). -/
def State.askGen (n : SessId) (s : State) : State :=
  match s.sess n with
  | none => s
  | some x =>
    match x.pattern with
    | none => s
    | some p =>
      match s.sharedGen x.cls p with
      | some g => s.joinGen g n
      | none =>
        match s.freeGenFor x.cls with
        | some g => s.grantGen g n
        | none =>
          match (if x.cls.emergency then s.cuttableGen x.cls else none) with
          | some g => s.takeGen g n
          | none =>
            if x.cls = .bell && x.deferLimit = 0 then s.endSession n .noSource
            else s.onTone fun t => { t with waitList := s.waitInsert n t.waitList }

/-- Session n asks for player p (R80). -/
def State.askPlayer (n : SessId) (p : PlayerId) (s : State) : State :=
  match s.sess n with
  | none => s
  | some x =>
    match (s.player p).current with
    | none => s.grantPlayer p n
    | some m =>
      match s.sess m with
      | none => s.grantPlayer p n
      | some y =>
        if x.cls.above y.cls then
          (((s.onWork fun w => { w with cutPlayer := some p }).endSession m .cut).onWork
            fun w => { w with cutPlayer := none }).grantPlayer p n
        else s.onPlayer p fun r => { r with queue := s.queueInsert n r.queue }

/-! ### Creating a session (R70) -/

/-- What an origin asks with (R41, R42, R83, R87, R93). `zones` is the resolved target; `suppressed` are zones
handed as suppressed (R40). -/
structure SessionAsk where
  cls        : Cls
  origin     : Origin
  source     : Source
  zones      : ZoneSet
  suppressed : ZoneSet
  duration   : Option Nat
  deferLimit : Nat
  deriving DecidableEq, Repr

/-- The monitor zones that a PAGE adds (R54): those of the buildings that its resolved target touches. A monitor zone so
added brings in no other, which is the model's choice (log entry 50). -/
def State.monitorZones (s : State) (zones : ZoneSet) : ZoneSet :=
  (allOf 6).foldl (fun (m : ZoneSet) b =>
    if (s.router.maps.at b &&& zones) != 0 then
      match s.router.monitor.at b with
      | some z => Mask.add m z.val
      | none => m
    else m) 0

/-- The requested set (R70 step 3). -/
def State.requestedZones (s : State) (a : SessionAsk) : ZoneSet :=
  let zones := a.zones ||| a.suppressed
  if a.cls = .page then zones ||| s.monitorZones zones else zones

/-- The lowest-numbered free record (R69). -/
def State.freeRecord (s : State) : Option SessId := (allOf 16).find? fun n => (s.sess n).isNone

/-- A new record (R70 step 3). -/
def State.newSession (s : State) (a : SessionAsk) : Session :=
  { cls := a.cls, origin := a.origin, source := a.source, state := .queued, duration := a.duration,
    deferLimit := a.deferLimit, createdAt := s.now, seq := s.router.seq, activeAt := none, pausedAt := none,
    requested := s.requestedZones a, connected := 0, waiting := 0, deferred := 0, held := 0, lost := 0,
    refNotAdmitted := 0, refFaulted := 0, refSuppressed := 0, ever := 0 }

/-- Why a requested zone of a new session is refused, the origin's hand-over first (R71). -/
def State.refusalAtCreation (s : State) (a : SessionAsk) (z : ZoneId) : Option UndeliveredReason :=
  if Mask.has a.suppressed z then some .suppressed else s.refusal a.cls z

/-- The requested zones refused for a reason (R70 step 4). -/
def State.refusedFor (s : State) (a : SessionAsk) (r : UndeliveredReason) : ZoneSet :=
  ((Mask.members (s.requestedZones a)).filter fun z => s.refusalAtCreation a z == some r).foldl
    (fun (m : ZoneSet) (z : ZoneId) => Mask.add m z.val) 0

/-- The requested zones that are not refused, ascending (R70 step 5). -/
def State.openZones (s : State) (a : SessionAsk) : List ZoneId :=
  (Mask.members (s.requestedZones a)).filter fun z => (s.refusalAtCreation a z).isNone

/-- A session's source is asked for (R70 step 7). -/
def State.askSource (n : SessId) (s : State) : State :=
  match s.sess n with
  | none => s
  | some x =>
    match x.source with
    | .console _ => s.activate n
    | .tone _ => s.askGen n
    | .player p _ _ => s.askPlayer n p

/-- A session request is refused TABLE_FULL (R70 steps 1 and 2). -/
def State.refusesSession (s : State) (a : SessionAsk) : Bool :=
  s.freeRecord.isNone || match a.source with
    | .player p _ _ => s.playerRefuses p a.cls
    | _ => false

/-- Record n is filled, its zones are refused or judged, and sets are settled (R70 steps 3 to 6). -/
def State.enterSession (a : SessionAsk) (n : SessId) (s : State) : State :=
  let x := { s.newSession a with
    refNotAdmitted := s.refusedFor a .notAdmitted, refFaulted := s.refusedFor a .faulted,
    refSuppressed := s.refusedFor a .suppressed }
  ((((s.setSess n (some x)).onRouter fun r => { r with seq := r.seq + 1 }).touch n).each (s.openZones a)
    (State.judge true n)).settleFrom (some n) 17

/-- A session is asked for; the answer is its number, or none for TABLE_FULL (R70). -/
def State.createSession (a : SessionAsk) (s : State) : State × Option SessId :=
  if s.refusesSession a then (s, none)
  else match s.freeRecord with
    | none => (s, none)
    | some n => ((s.enterSession a n).askSource n, some n)

/-! ### Re-judging a zone (R76) -/

/-- The fault step: occupant and held session give the zone up into waiting (R76 step 1). -/
def State.faultZone (z : ZoneId) (s : State) : State :=
  if (s.zone z).fault then
    let s1 := match (s.zone z).occupant with
      | some n => s.moveZone n z .waiting
      | none => s
    let s2 := match (s.zone z).held with
      | some n => s1.moveZone n z .waiting
      | none => s1
    s2.onZone z fun r => { r with occupant := none, held := none }
  else s

/-- A session loses zone z, leaving the occupant's place or the held slot if it had it (R76 steps 2, 3). -/
def State.loseZone (z : ZoneId) (n : SessId) (s : State) : State :=
  (s.moveZone n z .lost).onZone z fun r =>
    { r with occupant := if r.occupant = some n then none else r.occupant
             held := if r.held = some n then none else r.held }

/-- The sessions with a claim on z that its mode, or its building's state, takes it from (R76 steps 2, 3). -/
def State.barredFrom (s : State) (z : ZoneId) (n : SessId) : Bool :=
  match s.sess n with
  | some x => x.claims z && (!(s.zone z).effective.takes x.cls ||
      (x.cls.yields && s.router.view.at (s.zone z).building != .quiet))
  | none => false

/-- Zone z is re-judged (R76), and the sessions touched are settled. -/
def State.rejudge (z : ZoneId) (s : State) : State :=
  let had := (s.zone z).occupant.isSome
  let s1 := s.faultZone z
  let s2 := s1.each ((allOf 16).filter (s1.barredFrom z)) (State.loseZone z)
  let s3 :=
    if (s2.zone z).fault || (s2.zone z).occupant.isSome then s2
    else if had then s2.releaseZone z
    else s2.offer z
  s3.settle

/-! ### The crosspoint (R79) -/

/-- The bus zone z selects. -/
def State.selection (s : State) (z : ZoneId) : Option (Fin 8) :=
  if !s.up then none
  else match (s.zone z).occupant with
    | none => none
    | some n =>
      match s.sess n with
      | none => none
      | some x =>
        if x.state != .active then none
        else match x.source with
          | .tone _ => (s.genOf n).map fun g => ⟨g.val, by omega⟩
          | .player p _ _ => some ⟨4 + p.val, by omega⟩
          | .console c => some ⟨6 + c.val, by omega⟩

/-- The selections of all 64 zones. -/
def State.selections (s : State) : Tab (Option (Fin 8)) 64 := Tab.tabulate 64 s.selection

/-- The selections are looked at once an event is carried out: one that is not as it was last seen has changed (R79). That
a selection which an event changes and changes back within itself has not changed is the model's choice (log entry 58). -/
def State.noteSelections (s : State) : State :=
  if s.up && s.selections != s.router.seen then
    s.onRouter fun r => { r with seen := s.selections, changed := true }
  else s

/-- The first frame of RUNNING is sent and latched (R79). -/
def State.sendFrame (s : State) : State :=
  s.onRouter fun r => { r with latched := s.selections, frame := none, seen := s.selections, changed := false }

/-- The busy lamp of a console (R84); dark where the blocks do not run. -/
def State.busyLamp (s : State) (c : ConsoleId) : Bool :=
  s.up && ((s.console c).refusedMark || match (s.console c).session with
    | some n => match s.sess n with
      | some x => x.waiting != 0 && x.connected == 0
      | none => false
    | none => false)

end Sys2Proof.Machine
end

