-- ==== Sys2Proof/Machine/Zones.lean ====
section
/-! DEFINITION. The zone side of the Zone Router (chapter 4): effective modes, quiet marks, host overrides, fault flags and the building view. -/

namespace Sys2Proof.Machine

/-! ### The effective mode (R59) -/

/-- The effective mode of a zone record (R59). -/
def Zone.compute (r : Zone) : Mode :=
  match r.override with
  | some o => o.mode
  | none => if (r.dayQuiet || r.schedQuiet) && r.base != .off then .emergencyOnly else r.base

/-- Zone z's effective mode is computed again, and z is re-judged if it changed (R59, R65). -/
def State.refreshZone (z : ZoneId) (s : State) : State :=
  if (s.zone z).compute = (s.zone z).effective then s
  else (s.onZone z fun r => { r with effective := r.compute }).rejudge z

/-- Zone z's record is changed by `f` and its effective mode computed again. -/
def State.changeZone (z : ZoneId) (f : Zone → Zone) (s : State) : State := (s.onZone z f).refreshZone z

/-! ### Quiet marks (R58) -/

/-- The day-quiet set is received (R22, R58). -/
def State.takeDayQuiet (zones : ZoneSet) (s : State) : State :=
  s.each (allOf 64) fun z => State.changeZone z fun r => { r with dayQuiet := Mask.has zones z.val }

/-- One zone's scheduled-quiet mark is received (R44, R58). -/
def State.takeSchedQuiet (z : ZoneId) (mark : Bool) : State → State :=
  State.changeZone z fun r => { r with schedQuiet := mark }

/-! ### Host overrides (R60 to R63) -/

/-- The mode of zone z differs between two states. -/
def modeChanged (s t : State) (z : ZoneId) : Bool := (s.zone z).effective != (t.zone z).effective

/-- An override is placed on a zone, or removed from it; the count goes up by one when the effective mode
changed. -/
def State.overrideZone (o : Option HostOverride) (z : ZoneId) (sc : State × Nat) : State × Nat :=
  let t := sc.1.changeZone z fun r => { r with override := o }
  (t, if modeChanged sc.1 t z then sc.2 + 1 else sc.2)

/-- The zones, in turn, given an override or relieved of theirs, with how many changed effective mode. -/
def State.overrideZones (o : Option HostOverride) (zs : List ZoneId) (s : State) : State × Nat :=
  zs.foldl (fun sc z => State.overrideZone o z sc) (s, 0)

/-- ADMISSION_SET's result area (12.3). -/
def admissionResult (inTarget changed removed expiry : Nat) : List Byte :=
  u8 inTarget ++ u8 changed ++ u8 removed ++ List.replicate 5 0 ++ leBytes 5 expiry

/-- The expiry of an override of `minutes` placed now (R61). -/
def overrideExpiryAt (now minutes : Nat) : Option Nat := if minutes = 0 then none else some (now + 480 * minutes)

/-- ADMISSION_SET with a mode (R61). That a target of no zone, on which nothing is placed, still shows the expiry
computed for it is the model's choice (log entry 65). -/
def State.placeOverrides (zones : ZoneSet) (m : Mode) (minutes : Nat) (clamped : Bool) (s : State) :
    State × Answer :=
  let expiry := overrideExpiryAt s.now minutes
  let (t, changed) := s.overrideZones (some ⟨m, expiry⟩) (Mask.members zones)
  (t, ⟨okOr clamped, 0, admissionResult (Mask.count zones) changed 0 (expiry.getD 0)⟩)

/-- ADMISSION_SET with RELEASE (R62). -/
def State.releaseOverrides (zones : ZoneSet) (s : State) : State × Answer :=
  let held := (Mask.members zones).filter fun z => (s.zone z).override.isSome
  let (t, changed) := s.overrideZones none held
  (t, ⟨.ok, 0, admissionResult (Mask.count zones) changed held.length 0⟩)

/-- The action of RELEASE in ADMISSION_SET (12.1). -/
def releaseCode : Nat := 4

/-- ADMISSION_SET judged and carried out (R60). -/
def State.takeAdmission (kind action minutes group : Nat) (mask : ZoneSet) (s : State) : State × Answer :=
  match targetOf kind group mask with
  | none => (s, .plain .badParam)
  | some t =>
    if action = releaseCode then s.releaseOverrides (s.resolve t)
    else match modeOf action with
      | none => (s, .plain .badParam)
      | some m =>
        let n := clampTo 0 1440 minutes
        s.placeOverrides (s.resolve t) m n.1 n.2

/-- Zone z's override has come to its expiry (R63). -/
def State.overrideDue (s : State) (z : ZoneId) : Bool :=
  s.up && match (s.zone z).override with
    | some ⟨_, some e⟩ => decide (e ≤ s.now)
    | _ => false

/-- An override at its expiry is released (R63). -/
def State.expireOverride (z : ZoneId) (s : State) : State :=
  if s.overrideDue z then s.changeZone z fun r => { r with override := none } else s

/-! ### Fault flags (R64) -/

/-- The four zones of amplifier a (4.1). -/
def zonesOfAmp (a : Fin 16) : List ZoneId := (allOf 64).filter fun z => z.val / 4 == a.val

/-- Zone z's fault flag is set or cleared, and z is re-judged if it changed (R64). -/
def State.setFault (fault : Bool) (z : ZoneId) (s : State) : State :=
  if (s.zone z).fault = fault then s else (s.onZone z fun r => { r with fault := fault }).rejudge z

/-- The Scanner hands a change of amplifier a's class (R64). -/
def State.takeAmpClass (a : Fin 16) (c : ChanClass) (s : State) : State :=
  s.each (zonesOfAmp a) (State.setFault (c != .ok))

/-! ### The building view and the layout (R54, R66) -/

/-- A building's new state is received: the view takes it and every zone of the building's map is
re-judged (R66). -/
def State.takeBuildingState (b : BuildingId) (st : BState) (s : State) : State :=
  let s1 := s.onRouter fun r => { r with view := r.view.put b st }
  s1.each (Mask.members (s1.router.maps.at b)) State.rejudge

/-- The building-zone maps formed from the zone records (R54). -/
def mapsOf (zones : Tab Zone 64) : Tab ZoneSet 6 :=
  Tab.tabulate 6 fun b => (allOf 64).foldl
    (fun (m : ZoneSet) (z : ZoneId) => if (zones.at z).building = b then Mask.add m z.val else m) 0

/-- Every building is QUIET in the building view (R67). -/
def Router.allQuiet (r : Router) : Bool := (allOf 6).all fun b => r.view.at b == .quiet

end Sys2Proof.Machine
end

