-- ==== Sys2Proof/Machine/Bells.lean ====
section
/-! DEFINITION. The Bell Scheduler (chapter 3): the watermark rule, the date-change rule, firing, scheduled quiet and resume rings; and what it reads of the Calendar Unit (R21, R23). -/

namespace Sys2Proof.Machine

/-! ### Day types and selections (R21, R23) -/

/-- The day type of a civil date (R21). -/
def Calendar.typeOf (c : Calendar) (d : Nat) : Fin 16 :=
  match c.overrides.find? fun o => o.day == d with
  | some o => o.dtype
  | none =>
    if h : c.base ≤ d ∧ d - c.base < 400 then c.dayMap.at ⟨d - c.base, h.2⟩ else 0

/-- The program group g selects for civil date d (R23). -/
def Calendar.programFor (c : Calendar) (g : SchedId) (d : Nat) : Option ProgId :=
  (c.groups.at g).progMap.at (c.typeOf d)

/-- Group g's selection for today; NONE while today is none (R23). -/
def Calendar.selection (c : Calendar) (g : SchedId) : Option ProgId :=
  match c.today with
  | some d => c.programFor g d
  | none => none

/-! ### Entries -/

/-- The entries of a program, or none for the program NONE (R37). -/
def Bell.entries (r : Bell) : Option ProgId → List Entry
  | some p => r.programs.at p
  | none => []

/-- A list with each member's place in it. -/
def numbered {α : Type} : Nat → List α → List (Nat × α)
  | _, [] => []
  | k, x :: xs => (k, x) :: numbered (k + 1) xs

/-- Group g's record. -/
def State.groupWork (s : State) (g : SchedId) : GroupWork := s.bell.groups.at g

/-! ### Scheduled quiet (R43, R44) -/

/-- The zones whose scheduled-quiet mark is set: those in at least one group's set (R44). -/
def Bell.quietZones (r : Bell) : ZoneSet :=
  (allOf 8).foldl (fun (m : ZoneSet) (g : SchedId) => m ||| (r.groups.at g).quiet) 0

/-- Group g's scheduled-quiet set is replaced, and every zone whose mark thereby changes is handed to the
Zone Router (R44). -/
def State.setGroupQuiet (g : SchedId) (zones : ZoneSet) (s : State) : State :=
  let before := s.bell.quietZones
  let s1 := s.onGroup g fun r => { r with quiet := zones }
  let after := s1.bell.quietZones
  s1.each (Mask.members (before ^^^ after)) fun z => State.takeSchedQuiet z (Mask.has after z.val)

/-! ### Firing (3.5 to 3.8) -/

/-- The zones of a set of buildings (R54). -/
def State.zonesOfBuildings (s : State) (bs : BuildingSet) : ZoneSet :=
  (Mask.members bs).foldl (fun (m : ZoneSet) (b : BuildingId) => m ||| s.router.maps.at b) 0

/-- The buildings that hold at least one zone of a set (R40). -/
def State.buildingsOf (s : State) (zones : ZoneSet) : BuildingSet :=
  (allOf 6).foldl (fun (m : BuildingSet) (b : BuildingId) =>
    if (s.router.maps.at b &&& zones) != 0 then Mask.add m b.val else m) 0

/-- The firing zones of an entry fired by group g; a resume ring is limited to one building (R39). -/
def State.firingZones (s : State) (g : SchedId) (e : Entry) (only : Option BuildingId) : ZoneSet :=
  let zones := s.router.groups.at e.target &&& s.zonesOfBuildings (s.cal.groups.at g).scope
  match only with
  | none => zones
  | some b => zones &&& s.router.maps.at b

/-- The firing zones that are suppressed (R40). -/
def State.suppressedZones (s : State) (zones : ZoneSet) : ZoneSet :=
  if s.mainsOn then
    (allOf 6).foldl (fun (m : ZoneSet) (b : BuildingId) =>
      if s.bell.viewQuiet.at b then m else m ||| (zones &&& s.router.maps.at b)) 0
  else zones

/-- What a RING or a CUE asks the Zone Router for (R41, R42). -/
def sessionAskOf (g : SchedId) (ref : EntryRef) (e : Entry) (zones suppressed : ZoneSet) : SessionAsk :=
  { cls := .bell, origin := .scheduler g ref, zones := zones, suppressed := suppressed,
    source := if e.action = .cue then .player e.player e.message 1 else .tone e.pattern,
    duration := if e.action = .cue then none else some e.duration, deferLimit := e.deferLimit }

/-- The pending-resume places of group g at the given buildings take a reference (R47). -/
def State.recordResume (g : SchedId) (ref : EntryRef) (bs : BuildingSet) : State → State :=
  State.onBell fun r =>
    let places := Tab.tabulate 6 fun b => if Mask.has bs b.val then some ref else (r.resume.at g).at b
    { r with resume := r.resume.put g places }

/-- A RING or CUE with firing zones is carried out; the answer is the outcome it reports (R40 to R42). -/
def State.sound (g : SchedId) (ref : EntryRef) (e : Entry) (zones suppressed : ZoneSet) (s : State) :
    State × FireOutcome :=
  let remaining := zones &&& ~~~suppressed
  if remaining = 0 then (s, .suppressed)
  else match s.createSession (sessionAskOf g ref e remaining suppressed) with
    | (t, some n) => (t, .session n)
    | (t, none) => (t, .tableFull)

/-- An entry of RING or CUE fires (R39 to R42, R45, R47). -/
def State.fireSound (g : SchedId) (ref : EntryRef) (e : Entry) (lateness : Nat) (only : Option BuildingId)
    (s : State) : State :=
  let zones := s.firingZones g e only
  if zones = 0 then s.report (.entryFired g ref lateness .noZones 0 only.isSome)
  else
    let suppressed := s.suppressedZones zones
    let bs := s.buildingsOf suppressed
    let (t, out) := s.sound g ref e zones suppressed
    let t1 := if e.resumable && (s.cal.groups.at g).resume then t.recordResume g ref bs else t
    t1.report (.entryFired g ref lateness out bs only.isSome)

/-- An entry of QUIET_ON or QUIET_OFF fires (R43, R45). -/
def State.fireQuiet (g : SchedId) (ref : EntryRef) (e : Entry) (lateness : Nat) (s : State) : State :=
  let zones := s.firingZones g e none
  if zones = 0 then s.report (.entryFired g ref lateness .noZones 0 false)
  else
    let old := (s.groupWork g).quiet
    let new := if e.action = .quietOn then old ||| zones else old &&& ~~~zones
    (s.setGroupQuiet g new).report (.entryFired g ref lateness .quiet 0 false)

/-- An entry fires (3.5). -/
def State.fire (g : SchedId) (ref : EntryRef) (e : Entry) (lateness : Nat) (only : Option BuildingId)
    (s : State) : State :=
  match e.action with
  | .ring => s.fireSound g ref e lateness only
  | .cue => s.fireSound g ref e lateness only
  | .quietOn => s.fireQuiet g ref e lateness
  | .quietOff => s.fireQuiet g ref e lateness

/-! ### The watermark rule (R37) -/

/-- One entry the rule takes: fired within grace, or reported missed. -/
def State.takeEntry (g : SchedId) (p : ProgId) (now : Nat) (ke : Nat × Entry) (s : State) : State :=
  let late := now - ke.2.time
  if late ≤ (s.cal.groups.at g).grace then s.fire g ⟨p, ke.1⟩ ke.2 late none
  else s.report (.entryMissed g ⟨p, ke.1⟩ late)

/-- The entries the rule takes, in stored order (R37). -/
def State.dueEntries (s : State) (g : SchedId) (now : Nat) : List (Nat × Entry) :=
  (numbered 0 (s.bell.entries (s.groupWork g).program)).filter fun ke =>
    decide ((s.groupWork g).watermark < ke.2.time ∧ ke.2.time ≤ now)

/-- The watermark rule for a WORKING group (R37). -/
def State.runWatermark (g : SchedId) (now : Nat) (s : State) : State :=
  if (s.groupWork g).working then
    let s1 := match (s.groupWork g).program with
      | some p => s.each (s.dueEntries g now) (State.takeEntry g p now)
      | none => s
    s1.onGroup g fun r => { r with watermark := max r.watermark now }
  else s

/-! ### The date-change rule (R38) -/

/-- How many entries of a list have times above a watermark. -/
def countAbove (w : Int) (es : List Entry) : Nat := (es.filter fun e => decide (w < e.time)).length

/-- How many entries of a list have times at or below a watermark. -/
def countUpTo (w : Int) (es : List Entry) : Nat := (es.filter fun e => decide ((e.time : Int) ≤ w)).length

/-- The new watermark of a date change (R38 step 4). -/
def newWatermark (now grace : Nat) : Int := max ((now : Int) - grace - 1) (-1)

/-- Group g's pending-resume places become none. -/
def State.clearResume (g : SchedId) : State → State :=
  State.onBell fun r => { r with resume := r.resume.put g (Tab.all 6 none) }

/-- The date-change rule for one group (R38). -/
def State.changeDate (g : SchedId) (d now : Nat) (s : State) : State :=
  let r := s.groupWork g
  let remainder := if r.working then countAbove r.watermark (s.bell.entries r.program) else 0
  let prog := s.cal.programFor g d
  let w := newWatermark now (s.cal.groups.at g).grace
  let passed := countUpTo w (s.bell.entries prog)
  let s1 := ((s.onGroup g fun r => { r with working := true, date := some d, program := prog }).setGroupQuiet
    g 0).clearResume g
  let s2 := s1.onGroup g fun r => { r with watermark := w }
  let s3 := if remainder = 0 && passed = 0 then s2 else s2.report (.groupSkipped g d prog remainder passed)
  s3.runWatermark g now

/-! ### Program switch, selections and installs (R36, R49, R50) -/

/-- A program switch of group g (R49). -/
def State.switchProgram (g : SchedId) (prog : Option ProgId) (s : State) : State :=
  let now := s.civil.sec
  (((s.onGroup g fun r => { r with program := prog }).setGroupQuiet g 0).clearResume g).onGroup g
    fun r => { r with watermark := max r.watermark now }

/-- The Calendar Unit hands group g its selection for civil date d (R36). -/
def State.takeSelection (g : SchedId) (d : Nat) (prog : Option ProgId) (s : State) : State :=
  let r := s.groupWork g
  if r.working && r.date == some d && r.program != prog then s.switchProgram g prog else s

/-- A PROGRAMS or CALENDAR install at the Bell Scheduler (R50). -/
def State.bellInstall (s : State) : State :=
  s.each (allOf 8) fun g s =>
    match (s.groupWork g).working, (s.groupWork g).date with
    | true, some d => s.switchProgram g (s.cal.programFor g d)
    | _, _ => s

/-- A SITE install re-hands every scheduled-quiet mark (R44). -/
def State.handQuietMarks (s : State) : State :=
  s.each (allOf 64) fun z => State.takeSchedQuiet z (Mask.has s.bell.quietZones z.val)

/-! ### Resume rings (R48) -/

/-- A resume ring of group g's pending entry for building b (R48). -/
def State.resumeRing (b : BuildingId) (g : SchedId) (s : State) : State :=
  match (s.bell.resume.at g).at b with
  | none => s
  | some ref =>
    if (s.groupWork g).working && (s.cal.groups.at g).resume then
      let s1 := s.onBell fun r => { r with resume := r.resume.put g ((r.resume.at g).put b none) }
      match (s1.bell.programs.at ref.program)[ref.index]? with
      | some e => s1.fire g ref e (s1.civil.sec - e.time) (some b)
      | none => s1
    else s

/-- A resume ring is offered for building b (R48). -/
def State.offerResume (b : BuildingId) (s : State) : State := s.each (allOf 8) (State.resumeRing b)

/-- A building's new state is announced to the Bell Scheduler (R40, R48, R107 step 4). -/
def State.bellBuildingState (b : BuildingId) (st : BState) (s : State) : State :=
  let s1 := s.onBell fun r => { r with viewQuiet := r.viewQuiet.put b (st == .quiet) }
  if st = .quiet && s1.mainsOn then s1.offerResume b else s1

/-- Power has become NORMAL: every building QUIET in the view is offered (R48). -/
def State.bellMainsBack (s : State) : State :=
  s.each (allOf 6) fun b s => if s.bell.viewQuiet.at b then s.offerResume b else s

/-! ### Boundaries, time moves and RUNNING -/

/-- A civil second boundary (R37, R38). That the groups act in ascending number is the model's choice (log entry 49). -/
def State.bellBoundary (c : CivilTime) (dateChange : Bool) (s : State) : State :=
  s.each (allOf 8) fun g => if dateChange then State.changeDate g c.day c.sec else State.runWatermark g c.sec

/-- A time move is a date change: its civil day numbers differ, or it is a FIRST_SET (R7). -/
def TimeMove.dateChange (m : TimeMove) : Bool :=
  match m.old with
  | some o => o.day != m.new.day
  | none => true

/-- A time move (R37, R38). -/
def State.bellMove (m : TimeMove) (s : State) : State := s.bellBoundary m.new m.dateChange

/-- One group at RUNNING (R52). -/
def State.bellRunGroup (g : SchedId) (s : State) : State :=
  if s.timeSet then
    let c := s.civil
    if (s.groupWork g).date = some c.day then
      (s.onGroup g fun r => { r with working := true, program := s.cal.programFor g c.day }).runWatermark g c.sec
    else s.changeDate g c.day c.sec
  else s

/-- The Bell Scheduler at RUNNING (R52). -/
def State.bellRunning (s : State) : State := s.each (allOf 8) State.bellRunGroup

end Sys2Proof.Machine
end

