-- ==== Sys2Proof/Machine/CalendarUnit.lean ====
section
/-! DEFINITION. The Calendar Unit (chapter 2): date changes, the date override list and its request, and installs. -/

namespace Sys2Proof.Machine

/-- Today's day type is found again (R21). -/
def Calendar.findType (c : Calendar) : Calendar := { c with todayType := c.today.map c.typeOf }

/-- Every group is handed its selection for today (R23); while today is none no group is WORKING on it. -/
def State.handSelections (s : State) : State :=
  match s.cal.today with
  | some d => s.each (allOf 8) fun g => State.takeSelection g d (s.cal.programFor g d)
  | none => s

/-- The day-quiet set of today (R22). -/
def State.dayQuietSet (s : State) : ZoneSet :=
  match s.cal.todayType with
  | none => 0
  | some t =>
    match s.cal.quietGroup.at t with
    | none => 0
    | some g => s.router.groups.at g

/-- The day-quiet set is handed to the Zone Router (R22). -/
def State.handDayQuiet (s : State) : State := s.takeDayQuiet s.dayQuietSet

/-- A date change to civil day number d (R24). -/
def State.calDateChange (d : Nat) (s : State) : State :=
  ((s.onCal fun c => Calendar.findType
    { c with today := some d, overrides := c.overrides.filter fun o => decide (d ≤ o.day) }).handSelections).handDayQuiet

/-- A time move (R24, R25). -/
def State.calMove (m : TimeMove) (s : State) : State := if m.dateChange then s.calDateChange m.new.day else s

/-- The Calendar Unit at RUNNING (R33). -/
def State.calRunning (s : State) : State :=
  if s.timeSet then s.calDateChange s.civil.day else s.handDayQuiet

/-! ### Installs (R30) -/

/-- A PROGRAMS install at the Calendar Unit. -/
def State.calProgramsInstalled (s : State) : State := s.handSelections

/-- A CALENDAR install at the Calendar Unit, its tables taken. -/
def State.calCalendarInstalled (s : State) : State := ((s.onCal Calendar.findType).handSelections).handDayQuiet

/-! ### DAY_OVERRIDE (R26 to R29) -/

/-- The override list with a record for day d of type t: replaced, or inserted at its date's place (R27). -/
def setOverride (d : Nat) (t : Fin 16) : List DayOverride → List DayOverride
  | [] => [⟨d, t⟩]
  | o :: os => if o.day = d then ⟨d, t⟩ :: os else if d < o.day then ⟨d, t⟩ :: o :: os else o :: setOverride d t os

/-- A record for day d stands in the list. -/
def Calendar.holds (c : Calendar) (d : Nat) : Bool := c.overrides.any fun o => o.day == d

/-- What an override did with its record, as its result says (12.3). -/
def overrideNew : Nat := 0
/-- See `overrideNew`. -/
def overrideReplaced : Nat := 1
/-- See `overrideNew`. -/
def overrideCleared : Nat := 2

/-- The list has changed for day d: today's type is found again, and when it changed, switches and the
day-quiet set are handed (R29). The answer says what was done (R28). -/
def State.overrideDone (d what : Nat) (s : State) : State × Answer :=
  let answer (t : State) (changed : Bool) : Answer :=
    ⟨.ok, 0, u8 t.cal.overrides.length ++ u8 (t.cal.typeOf d).val ++ u8 what ++ u8 (bitNum changed)⟩
  if s.cal.today = some d && s.cal.todayType != some (s.cal.typeOf d) then
    let t := ((s.onCal Calendar.findType).handSelections).handDayQuiet
    (t, answer t true)
  else (s, answer s false)

/-- DAY_OVERRIDE SET for day d with type t (R27). -/
def State.setDayOverride (d : Nat) (t : Fin 16) (s : State) : State × Answer :=
  let put := s.onCal fun c => { c with overrides := setOverride d t c.overrides }
  if s.cal.holds d then put.overrideDone d overrideReplaced
  else if s.cal.overrides.length < 16 then put.overrideDone d overrideNew
  else (s, .plain .tableFull)

/-- DAY_OVERRIDE CLEAR for day d (R28). -/
def State.clearDayOverride (d : Nat) (s : State) : State × Answer :=
  if s.cal.holds d then
    (s.onCal fun c => { c with overrides := c.overrides.filter fun o => o.day != d }).overrideDone d overrideCleared
  else (s, .plain .noSession)

/-- DAY_OVERRIDE judged and carried out (R26). -/
def State.takeDayOverride (action dayType year month day : Nat) (s : State) : State × Answer :=
  let date : Date := ⟨year, month, day⟩
  if !s.timeSet then (s, .plain .notReady)
  else if 1 < action then (s, .plain .badParam)
  else if year < 2000 || 2099 < year then (s, .plain .range)
  else if !date.valid then (s, .plain .badParam)
  else match asFin 16 dayType with
    | none =>
      if action = 0 then (s, .plain .badParam)
      else if dayNumber date < s.cal.today.getD 0 then (s, .plain .range)
      else s.clearDayOverride (dayNumber date)
    | some t =>
      if dayNumber date < s.cal.today.getD 0 then (s, .plain .range)
      else if action = 0 then s.setDayOverride (dayNumber date) t
      else s.clearDayOverride (dayNumber date)

end Sys2Proof.Machine
end

