-- ==== Sys2Proof/Machine/Scanner.lean ====
section
/-! DEFINITION. The Supervision Scanner (chapter 9): the converter, the select queue, the scan, and the classes of channels. -/

namespace Sys2Proof.Machine

/-- The channel of a clock line (chapter 9). -/
def lineChannel (l : LineId) : ChannelId := ⟨l.val, by omega⟩

/-- The channel of an amplifier (4.1). -/
def ampChannel (a : Fin 16) : ChannelId := ⟨8 + a.val, by omega⟩

/-- The amplifier of a channel from 8 on. -/
def ampOf (k : ChannelId) : Fin 16 := ⟨k.val - 8, by omega⟩

/-- The scan position after a channel, from 23 back to 8 (R151). -/
def nextScan (k : ChannelId) : ChannelId := if h : k.val + 1 < 24 then ⟨k.val + 1, h⟩ else 8

/-- A reading classed with a channel's thresholds (R152 step 2). -/
def Channel.classify (c : Channel) (r : Nat) : ChanClass :=
  if r < c.openT then .openCircuit else if c.shortT < r then .short else .ok

/-- A reading joins the history, which keeps the last four (R152 step 1). -/
def Channel.remember (r : Nat) (c : Channel) : Channel :=
  let h := c.history ++ [r]
  { c with history := h.drop (h.length - 4) }

/-- The class that at least three readings of the history have, if one does (R154). -/
def Channel.agreed (c : Channel) : Option ChanClass :=
  [ChanClass.ok, .openCircuit, .short].find? fun x =>
    decide (3 ≤ (c.history.filter fun r => c.classify r == x).length)

/-! ### Select requests (R149, R150) -/

/-- The head of the select queue is converted, or the converter becomes IDLE (R149). -/
def Scanner.next (r : Scanner) : Scanner :=
  match r.queue with
  | l :: rest => { r with queue := rest, converter := some ⟨lineChannel l, .select true⟩ }
  | [] => { r with converter := none }

/-- A line asks for a select conversion (R150). -/
def Scanner.ask (l : LineId) (r : Scanner) : Scanner :=
  let q := { r with queue := if r.queue.contains l then r.queue else r.queue ++ [l] }
  if r.converter.isNone then q.next else q

/-- A line's impulse has ended: its request still in the queue is withdrawn, and a conversion in progress for
it has no impulse to be handed to (R150, R152). -/
def Scanner.withdraw (l : LineId) (r : Scanner) : Scanner :=
  { r with
    queue := r.queue.filter (· != l)
    converter := r.converter.map fun c =>
      if c.channel = lineChannel l then { c with kind := match c.kind with
                                                        | .select _ => .select false
                                                        | .scan => .scan } else c }

/-- At an eighth boundary a SCAN conversion starts when the converter is IDLE and the queue empty (R151). -/
def Scanner.scan (r : Scanner) : Scanner :=
  if r.converter.isNone && r.queue.isEmpty then { r with converter := some ⟨r.pos, .scan⟩ } else r

/-- A scan that has still to look for the converter at this boundary does so (R151). -/
def Scanner.takeScan (r : Scanner) : Scanner := if r.scanDue then { r.scan with scanDue := false } else r

/-- The conversion in progress and the queue are given up (R157). -/
def Scanner.abandon (r : Scanner) : Scanner := { r with converter := none, queue := [], scanDue := false }

/-- A line channel's class follows a verdict (R156). -/
def State.setLineClass (l : LineId) (c : ChanClass) : State → State :=
  State.onChannel (lineChannel l) fun r => { r with cls := c }

/-! ### Amplifier classes (R154, R155) -/

/-- An amplifier channel's class changes to c, decided by a reading (R154). -/
def State.changeAmpClass (k : ChannelId) (c : ChanClass) (reading : Nat) (s : State) : State :=
  let old := (s.channel k).cls
  ((s.onChannel k fun r => { r with cls := c }).takeAmpClass (ampOf k) c).report (.channelState k old c reading)

/-- The amplifier rule, once a SCAN reading has been appended (R154). -/
def State.ampRule (k : ChannelId) (reading : Nat) (s : State) : State :=
  match (s.channel k).agreed with
  | none => s
  | some c => if c = (s.channel k).cls then s else s.changeAmpClass k c reading

/-- The channels a section installs thresholds for take them (R153). -/
def State.setThresholds (first : Nat) (pairs : List (Nat × Nat)) (s : State) : State :=
  s.onScan fun r => { r with channels := Tab.tabulate 24 fun k =>
    match (if first ≤ k.val then pairs[k.val - first]? else none) with
    | some p => { r.channels.at k with openT := p.1, shortT := p.2 }
    | none => r.channels.at k }

end Sys2Proof.Machine
end

