-- ==== Sys2Proof/Machine/Lines.lean ====
section
/-! DEFINITION. The Clock Line Driver (chapter 8): impulses and verdicts, the correction decision, the catch-up arbiter, faults and probes, coded frames, its requests, power and installs. -/

namespace Sys2Proof.Machine

/-! ### Target, phase, lag and the decision (R128, R133) -/

/-- The dial period P (8.1). -/
def LineKind.period : LineKind → Nat
  | .minute => 720 | .halfMinute => 1440 | .coded => 0 | .disabled => 0

/-- The seconds of a target unit. -/
def LineKind.unitSec : LineKind → Nat
  | .minute => 60 | .halfMinute => 30 | .coded => 1 | .disabled => 1

/-- The unit time U (8.1). -/
def LineKind.unit (k : LineKind) : Nat := k.unitSec * 8

/-- An impulse line. -/
def LineKind.impulses : LineKind → Bool
  | .minute | .halfMinute => true
  | .coded | .disabled => false

/-- The target T at civil second of day c (R128). -/
def LineKind.target (k : LineKind) (c : Nat) : Nat := c / k.unitSec % k.period

/-- The phase φ (R128). -/
def LineKind.phase (k : LineKind) (c e : Nat) : Nat := c % k.unitSec * 8 + e

/-- The lag L = (T − D) mod P (R128). -/
def lagOf (period target display : Nat) : Nat := (target + (period - display % period)) % period

/-- The correction decision (R133) from its lag, P, U, q and φ. -/
def decisionOf (period unit q phase lag : Nat) : Decision :=
  let lead := period - lag
  if lag = 0 then ⟨.inStep, 0, 0, 0⟩
  else if lag * q * unit ≤ (unit - q) * (lead * unit - phase) then
    ⟨.advance, lag, lead, (lag * q * unit + (unit - q - 1)) / (unit - q)⟩
  else ⟨.hold, lag, lead, lead * unit - phase⟩

/-- The target of line l now (R128). -/
def State.lineTarget (s : State) (l : LineId) : Nat := (s.clock l).kind.target s.civil.sec

/-- The lag of line l now, for a display position (R128). -/
def State.lineLag (s : State) (l : LineId) (display : Nat) : Nat :=
  lagOf (s.clock l).kind.period (s.lineTarget l) display

/-- The decision line l would take now (R133). -/
def State.lineDecision (s : State) (l : LineId) (display : Nat) : Decision :=
  let k := (s.clock l).kind
  decisionOf k.period k.unit (s.clock l).q (k.phase s.civil.sec s.time.eighth) (s.lineLag l display)

/-- Impulses, probes and frames are issued (R129, R141): RUNNING, NORMAL, and time set. -/
def State.drives (s : State) : Bool := s.up && s.mainsOn && s.timeSet

/-! ### States and the arbiter (R134, R136, R147) -/

/-- Line l's state changes, with its report (R147). -/
def State.setLineState (l : LineId) (new : LineState) (cause : LineCause) (s : State) : State :=
  let old := (s.clock l).state
  if old = new then s
  else (s.onClock l fun r => { r with state := new }).report (.lineState l old new cause)

/-- The elapsed count of the next instant at which an impulse may start: now at an eighth boundary, or the
next boundary (R129). -/
def State.nextStart (s : State) : Nat := if s.time.atBoundary then s.now else s.now + 1

/-- Line l holds a grant and enters ADVANCING; its first fast impulse starts at the grant, or when the impulse
in flight ends (R137). -/
def State.enterAdvancing (l : LineId) (cause : LineCause) (s : State) : State :=
  (s.setLineState l .advancing cause).onClock l fun r =>
    { r with fastTimer := if r.inflight.isSome then none else some s.nextStart }

/-- Grants pass to the head of the waiting list while fewer than K stand (R136). -/
def State.passGrants : Nat → State → State
  | 0, s => s
  | k + 1, s =>
    match s.line.waiting with
    | [] => s
    | l :: rest =>
      if s.line.grants.length < s.line.budget then
        State.passGrants k ((s.onLine fun d =>
          { d with waiting := rest, grants := insertNum l d.grants }).enterAdvancing l .grant)
      else s

/-- Line l's grant is released, or its place in the list given up, and grants pass on (R136). -/
def State.leaveArbiter (l : LineId) (s : State) : State :=
  (s.onLine fun d =>
    { d with grants := d.grants.filter (· != l), waiting := d.waiting.filter (· != l) }).passGrants 8

/-- Line l asks for a grant (R136). -/
def State.askGrant (l : LineId) (s : State) : State :=
  if s.line.grants.length < s.line.budget then
    (s.onLine fun d => { d with grants := insertNum l d.grants }).enterAdvancing l .decision
  else
    (s.onLine fun d => { d with waiting := d.waiting ++ [l] }).setLineState l .advanceWait .decision

/-- Line l leaves ADVANCE_WAIT or ADVANCING for another state: its fast timer becomes none, the change is
reported, and the arbiter goes on (R136). -/
def State.leaveCatchUp (l : LineId) (new : LineState) (cause : LineCause) (s : State) : State :=
  ((s.setLineState l new cause).onClock l fun r => { r with fastTimer := none }).leaveArbiter l

/-- What a decision does to the line (R134). -/
def State.applyVerdict (l : LineId) (v : Verdict) (s : State) : State :=
  match (s.clock l).state, v with
  | .inStep, .advance => s.askGrant l
  | .inStep, .hold => s.setLineState l .holding .decision
  | .holding, .inStep => s.setLineState l .inStep .decision
  | .holding, .advance => s.askGrant l
  | .advanceWait, .inStep => s.leaveCatchUp l .inStep .decision
  | .advanceWait, .hold => s.leaveCatchUp l .holding .decision
  | .advancing, .inStep => s.leaveCatchUp l .inStep .decision
  | .advancing, .hold => s.leaveCatchUp l .holding .decision
  | _, _ => s

/-- The line states the correction decision runs in (R134). -/
def LineState.decides : LineState → Bool
  | .inStep | .advanceWait | .advancing | .holding => true
  | .unknown | .stopped | .fault | .disabled => false

/-- The correction decision of line l runs (R133, R134). -/
def State.decideLine (l : LineId) (s : State) : State :=
  match (s.clock l).display with
  | none => s
  | some d =>
    if (s.clock l).kind.impulses && (s.clock l).state.decides then
      let dec := s.lineDecision l d
      ((s.onClock l fun r => { r with last := some dec }).report (.lineDecision l dec)).applyVerdict l dec.verdict
    else s

/-- A re-evaluation trigger reaches line l (R135). One that finds an impulse in flight while time is UNSET or the power is
not NORMAL falls under both of the rule's last two points: that it sets no pending mark is the model's choice (log
entry 56). -/
def State.triggerLine (l : LineId) (s : State) : State :=
  if s.drives then
    if (s.clock l).inflight.isSome then s.onClock l fun r => { r with reeval := true } else s.decideLine l
  else s

/-! ### Impulses and frames (R129, R137, R140, R141) -/

/-- An impulse of an impulse line starts, on the line's next polarity, for w eighths (R129). -/
def State.startImpulse (l : LineId) (kind : ImpulseKind) (s : State) : State :=
  s.onClock l fun r =>
    let imp : Impulse := ⟨kind, false, [], s.now, r.w, r.polarity, false, none, false⟩
    { r with inflight := some imp }

/-- The eight bytes of a time frame (R141, 12.7). -/
def State.frameBytes (s : State) : List Byte :=
  let c := s.civil
  let d := dateOf c.day
  let head := u8 (d.year % 100) ++ u8 d.month ++ u8 d.day ++
    u8 (weekdayOf c.day + 8 * bitNum s.time.dstInForce + 16 * s.time.quality.num) ++ u8 (c.sec / 3600) ++
    u8 (c.sec / 60 % 60) ++ u8 (c.sec % 60)
  head ++ [xorBytes head]

/-- The select conversion of line l's impulse or frame is due: half its width has passed, which for a frame is at
its start (R130, R141). -/
def State.selectDue (s : State) (l : LineId) : Bool :=
  s.up && match (s.clock l).inflight with
    | some imp => !imp.asked && decide (imp.start + imp.width / 2 ≤ s.now)
    | none => false

/-- Line l asks for its select conversion (R130, R141, R150). -/
def State.askSelect (l : LineId) (s : State) : State :=
  if s.selectDue l then
    (s.onClock l fun r =>
      { r with inflight := r.inflight.map fun imp => { imp with asked := true } }).onScan (Scanner.ask l)
  else s

/-- A coded line sends one time frame (R141). It asks for its select conversion at the start: at an eighth boundary
among the other requests of that instant (R150), and at once between boundaries. -/
def State.startFrame (l : LineId) (kind : ImpulseKind) (s : State) : State :=
  let imp : Impulse := ⟨kind, true, s.frameBytes, s.now, 1, .a, false, none, false⟩
  let t := s.onClock l fun r => { r with inflight := some imp, outputOff := false }
  if s.time.atBoundary then t else t.askSelect l

/-- A probe of line l starts (R140). -/
def State.startProbe (l : LineId) (s : State) : State :=
  let t := s.onClock l fun r => { r with probeTimer := none, probeAsked := false }
  if (s.clock l).kind = .coded then t.startFrame l .probe else t.startImpulse l .probe

/-- A coded line in IN_STEP sends its frame now, or once the frame in flight has ended (R141). That several moves and
boundaries that meet one frame in flight give one frame after it, with the time as it then stands, is the model's choice
(log entry 60). -/
def State.codedFrame (l : LineId) (s : State) : State :=
  if (s.clock l).kind = .coded && (s.clock l).state == .inStep && s.drives then
    if (s.clock l).inflight.isSome then s.onClock l fun r => { r with reeval := true } else s.startFrame l .frame
  else s

/-! ### Verdicts (R130 to R132, R140) -/

/-- The verdict delivered or failed of a kept result (R130). -/
def deliveredBy : Option ChanClass → Bool
  | none => true
  | some .ok => true
  | some .openCircuit => false
  | some .short => false

/-- The other polarity. -/
def Polarity.flip : Polarity → Polarity
  | .a => .b
  | .b => .a

/-- A delivered impulse advances the display and toggles the polarity; a frame, and an impulse during which
the host set the display, do neither (R130, R141, R142). -/
def Line.deliver (imp : Impulse) (r : Line) : Line :=
  let t := { r with failCount := 0 }
  if imp.coded || imp.hostSet then t
  else { t with
    display := r.display.map fun d => (d + 1) % r.kind.period
    polarity := r.polarity.flip }

/-- The impulse in flight is over: the line has none, and its select request is withdrawn (R150). -/
def State.clearInflight (l : LineId) (s : State) : State :=
  (s.onClock l fun r => { r with inflight := none }).onScan (Scanner.withdraw l)

/-- The verdict of an impulse is applied and handed to the Scanner (R130, R156). -/
def State.applyDelivery (l : LineId) (imp : Impulse) (s : State) : State :=
  if deliveredBy imp.result then (s.onClock l (Line.deliver imp)).setLineClass l .ok
  else (s.onClock l fun r => { r with failCount := r.failCount + 1 }).setLineClass l (imp.result.getD .ok)

/-- Line l enters FAULT (R140). -/
def State.faultLine (l : LineId) (s : State) : State :=
  (((s.setLineState l .fault .fault).onClock l fun r =>
    { r with fastTimer := none, reeval := false, probeTimer := some (s.now + Config.probeInterval) }).leaveArbiter l)

/-- A line in FAULT deals with its probe's verdict (R140). -/
def State.probeEnded (l : LineId) (delivered : Bool) (s : State) : State :=
  if delivered then
    ((s.onClock l fun r => { r with probeTimer := none, reeval := false }).setLineState l .inStep
      .probeOk).triggerLine l
  else s.onClock l fun r => { r with failCount := min r.failCount 2, probeTimer := some (s.now + Config.probeInterval) }

/-- Line l has caught up (R137). -/
def State.caughtUp (l : LineId) (s : State) : State := s.leaveCatchUp l .inStep .caughtUp

/-- The lag of line l is 0. -/
def State.inStepNow (s : State) (l : LineId) : Bool :=
  match (s.clock l).display with
  | some d => s.lineLag l d == 0
  | none => false

/-- What an impulse line does once a verdict is applied, by its state (R131 step 3, R137). -/
def State.afterVerdict (l : LineId) (s : State) : State :=
  match (s.clock l).state with
  | .inStep => if s.inStepNow l then s else s.triggerLine l
  | .advancing =>
    if s.inStepNow l then s.caughtUp l
    else if (s.clock l).fastTimer.isNone then s.onClock l fun r => { r with fastTimer := some s.nextStart }
    else s
  | _ => s

/-- A line still ADVANCING after a pending decision starts its next fast impulse if none is timed (R137). -/
def State.armFast (l : LineId) (s : State) : State :=
  if (s.clock l).state = .advancing && (s.clock l).fastTimer.isNone && (s.clock l).inflight.isNone then
    s.onClock l fun r => { r with fastTimer := some s.nextStart }
  else s

/-- The end of an impulse of an impulse line (R131), or of a coded line's frame (R141). -/
def State.endImpulse (l : LineId) (s : State) : State :=
  match (s.clock l).inflight with
  | none => s
  | some imp =>
    let s1 := (s.clearInflight l).applyDelivery l imp
    if (s.clock l).state = .fault then s1.probeEnded l (deliveredBy imp.result)
    else if 2 ≤ (s1.clock l).failCount then s1.faultLine l
    else if (s.clock l).reeval then
      let s2 := s1.onClock l fun r => { r with reeval := false }
      if imp.coded then s2.codedFrame l else (s2.triggerLine l).armFast l
    else if imp.coded then s1
    else s1.afterVerdict l

/-- A result is handed back to line l (R130): a SHORT ends the impulse at once, and leaves a coded line's
output off (R141). -/
def State.takeResult (l : LineId) (c : ChanClass) (s : State) : State :=
  match (s.clock l).inflight with
  | none => s
  | some imp =>
    let s1 := s.onClock l fun r => { r with inflight := some { imp with result := some c } }
    if c = .short then
      (s1.onClock l fun r => { r with outputOff := imp.coded }).endImpulse l
    else s1

/-- A conversion ends with a reading (R149, R152). -/
def State.endConversion (reading : Nat) (s : State) : State :=
  match s.scan.converter with
  | none => s
  | some c =>
    let s1 := s.onChannel c.channel (Channel.remember reading)
    let cls := (s1.channel c.channel).classify reading
    let s2 := match c.kind with
      | .scan => (s1.ampRule c.channel reading).onScan fun r => { r with pos := nextScan r.pos }
      | .select live =>
        match asFin 8 c.channel.val with
        | some l => if live then s1.takeResult l cls else s1
        | none => s1
    s2.onScan Scanner.next

/-! ### Due events of a line -/

/-- Line l's impulse has run its width (R129). -/
def State.impulseDone (s : State) (l : LineId) : Bool :=
  s.up && match (s.clock l).inflight with
    | some imp => !imp.coded && decide (imp.start + imp.width ≤ s.now)
    | none => false

/-- The end of an impulse by its width (R130, R131). -/
def State.impulseEnd (l : LineId) (s : State) : State := if s.impulseDone l then s.endImpulse l else s

/-- Line l has a frame in flight. -/
def State.frameInFlight (s : State) (l : LineId) : Bool :=
  s.up && match (s.clock l).inflight with
    | some imp => imp.coded
    | none => false

/-- The end of a coded line's frame (R141). -/
def State.frameEnd (l : LineId) (s : State) : State := if s.frameInFlight l then s.endImpulse l else s

/-- A frame that began in an earlier eighth has ended: it takes about 66.7 ms (R141). -/
def State.frameOverdue (l : LineId) (s : State) : State :=
  match (s.clock l).inflight with
  | some imp => if imp.start < s.now then s.frameEnd l else s
  | none => s

/-- Line l's fast impulse is due (R137). -/
def State.fastDue (s : State) (l : LineId) : Bool :=
  s.up && (s.clock l).state == .advancing && (s.clock l).inflight.isNone && match (s.clock l).fastTimer with
    | some t => decide (t ≤ s.now)
    | none => false

/-- Line l's fast impulse starts, and the next is timed q eighths on (R137); while time is UNSET none is
issued (R129). -/
def State.fastImpulse (l : LineId) (s : State) : State :=
  if s.fastDue l then
    let t := s.onClock l fun r => { r with fastTimer := some (s.now + r.q) }
    if s.drives then t.startImpulse l .fast else t
  else s

/-- Line l's probe timer has come to its end (R140). -/
def State.probeDue (s : State) (l : LineId) : Bool :=
  s.up && (s.clock l).state == .fault && (s.clock l).inflight.isNone && match (s.clock l).probeTimer with
    | some t => decide (t ≤ s.now)
    | none => false

/-- Line l's probe timer expires (R140). -/
def State.probeTimerExpire (l : LineId) (s : State) : State :=
  if s.probeDue l then
    if s.drives then s.startProbe l
    else s.onClock l fun r => { r with probeTimer := some (s.now + Config.probeInterval) }
  else s

/-- A probe that LINE_CONTROL PROBE asked for starts at this eighth boundary (R144). -/
def State.askedProbe (l : LineId) (s : State) : State :=
  if (s.clock l).probeAsked then
    if (s.clock l).state = .fault && s.drives && (s.clock l).inflight.isNone then s.startProbe l
    else s.onClock l fun r => { r with probeAsked := false }
  else s

/-! ### Boundaries, moves, power, RUNNING (R129, R135, R139, R141, R145, R148) -/

/-- A boundary is a target-unit boundary of a kind (R128). -/
def LineKind.unitBoundary (k : LineKind) (c : Nat) : Bool := k.impulses && c % k.unitSec == 0

/-- A civil second boundary at line l (R129, R139, R141); the target is that of the boundary's second. -/
def State.lineBoundaryOne (c : Nat) (l : LineId) (s : State) : State :=
  let r := s.clock l
  if r.kind = .coded then s.codedFrame l
  else if r.kind.unitBoundary c then
    match r.state with
    | .inStep => if s.drives && r.inflight.isNone then s.startImpulse l .normal else s
    | .advanceWait => if s.drives && r.inflight.isNone then s.startImpulse l .normal else s
    | .holding => if r.display = some (r.kind.target c) then s.setLineState l .inStep .heldOut else s
    | _ => s
  else s

/-- A civil second boundary at the Clock Line Driver. -/
def State.lineBoundary (c : CivilTime) (s : State) : State := s.each (allOf 8) (State.lineBoundaryOne c.sec)

/-- A time move at line l (R135, R141). -/
def State.lineMoveOne (l : LineId) (s : State) : State :=
  if (s.clock l).kind = .coded then s.codedFrame l
  else if (s.clock l).state.decides then s.triggerLine l
  else s

/-- A time move at the Clock Line Driver. -/
def State.lineMove (s : State) : State := s.each (allOf 8) State.lineMoveOne

/-- The part reaches RUNNING: every impulse line in IN_STEP is decided (R148). -/
def State.lineRunning (s : State) : State :=
  s.each (allOf 8) fun l s =>
    if (s.clock l).kind.impulses && (s.clock l).state == .inStep then s.triggerLine l else s

/-- An impulse in flight counts as delivered when the power state leaves NORMAL (R132). -/
def Impulse.deliveredAtCut (imp : Impulse) (now : Nat) : Bool :=
  decide (imp.width ≤ 2 * (now - imp.start)) && deliveredBy imp.result

/-- The impulse or frame of line l ends as the power state leaves NORMAL (R132). -/
def State.cutImpulse (l : LineId) (s : State) : State :=
  match (s.clock l).inflight with
  | none => s
  | some imp =>
    let s1 := (s.clearInflight l).onClock l fun r => { r with reeval := false }
    if !imp.coded && imp.deliveredAtCut s.now then
      let s2 := (s1.onClock l (Line.deliver imp)).setLineClass l .ok
      if (s2.clock l).state = .fault then
        (s2.onClock l fun r => { r with probeTimer := none }).setLineState l .inStep .probeOk
      else s2
    else s1

/-- Line l takes the change from NORMAL to RESERVE (R145). -/
def State.lineReserveOne (l : LineId) (s : State) : State :=
  let s1 := s.onClock l fun r => { r with fastTimer := none, probeAsked := false, reeval := false }
  match (s1.clock l).state with
  | .advanceWait => s1.setLineState l .inStep .power
  | .advancing => s1.setLineState l .inStep .power
  | _ => s1

/-- NORMAL to RESERVE at the Clock Line Driver, the impulses in flight already ended (R145). -/
def State.lineReserve (s : State) : State :=
  (s.onLine fun d => { d with grants := [], waiting := [] }).each (allOf 8) State.lineReserveOne

/-- RESERVE to NORMAL at line l (R145). -/
def State.lineMainsBackOne (l : LineId) (s : State) : State :=
  match (s.clock l).state with
  | .fault => s.onClock l fun r => { r with probeTimer := some (s.now + Config.probeInterval) }
  | .inStep => if (s.clock l).kind.impulses then s.triggerLine l else s
  | .holding => s.triggerLine l
  | _ => s

/-- RESERVE to NORMAL at the Clock Line Driver (R145). -/
def State.lineMainsBack (s : State) : State := s.each (allOf 8) State.lineMainsBackOne

/-! ### LINE_SET_DISPLAY and LINE_CONTROL (R142 to R144) -/

/-- A display position as the result and the mirror code it (12.3, 12.5). -/
def displayCode (d : Option Nat) : Nat := d.getD 0xFFFF

/-- LINE_SET_DISPLAY carried out on line l (R142). -/
def State.setDisplay (l : LineId) (position : Nat) (p : Polarity) (s : State) : State × Answer :=
  let old := s.clock l
  let s1 := s.onClock l fun r =>
    { r with display := some position, polarity := p
             inflight := r.inflight.map fun imp => { imp with hostSet := true } }
  let s2 :=
    if old.state = .unknown then (s1.setLineState l .inStep .setDisplay).triggerLine l
    else if old.state.decides then s1.triggerLine l
    else s1
  (s2, ⟨.ok, 0, leBytes 2 (displayCode old.display) ++ u8 old.polarity.num ++ u8 (s2.clock l).state.num⟩)

/-- LINE_SET_DISPLAY judged (R142). -/
def State.takeSetDisplay (line polarity position : Nat) (s : State) : State × Answer :=
  match asFin 8 line, polarityOf polarity with
  | some l, some p =>
    if !(s.clock l).kind.impulses then (s, .plain .badParam)
    else if (s.clock l).kind.period ≤ position then (s, .plain .range)
    else s.setDisplay l position p
  | _, _ => (s, .plain .badParam)

/-- The answer of a LINE_CONTROL that is carried out: the state before it (12.3). -/
def stateBefore (r : Line) : Answer := ⟨.ok, 0, u8 r.state.num⟩

/-- LINE_CONTROL STOP on line l (R143). -/
def State.stopLine (l : LineId) (s : State) : State :=
  if (s.clock l).state = .stopped then s
  else
    ((s.setLineState l .stopped .stop).onClock l fun r =>
      { r with stopped := true, fastTimer := none, probeTimer := none, probeAsked := false, reeval := false
               failCount := 0 }).leaveArbiter l

/-- LINE_CONTROL RUN on a STOPPED line (R144). -/
def State.restartLine (l : LineId) (s : State) : State :=
  let s1 := s.onClock l fun r => { r with stopped := false }
  if (s1.clock l).kind = .coded then s1.setLineState l .inStep .run
  else if (s1.clock l).display.isNone then s1.setLineState l .unknown .run
  else (s1.setLineState l .inStep .run).triggerLine l

/-- LINE_CONTROL RUN on line l (R144). -/
def State.runLine (l : LineId) (s : State) : State × Answer :=
  let r := s.clock l
  match r.state with
  | .stopped => (s.restartLine l, stateBefore r)
  | .fault => (s, .plain .state)
  | .unknown => (s, stateBefore r)
  | _ => (if r.kind.impulses && r.state.decides then s.triggerLine l else s, stateBefore r)

/-- LINE_CONTROL PROBE on line l (R144). -/
def State.probeLine (l : LineId) (s : State) : State × Answer :=
  let r := s.clock l
  if r.state != .fault || !s.mainsOn then (s, .plain .state)
  else if r.inflight.isSome then (s, .plain .busy)
  else (s.onClock l fun r => { r with probeAsked := true }, stateBefore r)

/-- The actions of LINE_CONTROL (12.3). -/
def actionStop : Nat := 0
/-- See `actionStop`. -/
def actionRun : Nat := 1
/-- See `actionStop`. -/
def actionProbe : Nat := 2

/-- LINE_CONTROL judged: PROBE without valid time (R174 step 2), then R143 and R144. -/
def State.takeLineControl (line action : Nat) (s : State) : State × Answer :=
  if action = actionProbe && !s.timeSet then (s, .plain .notReady)
  else match asFin 8 line with
    | none => (s, .plain .badParam)
    | some l =>
      if (s.clock l).kind = .disabled || actionProbe < action then (s, .plain .badParam)
      else if action = actionStop then (s.stopLine l, stateBefore (s.clock l))
      else if action = actionRun then s.runLine l
      else s.probeLine l

/-! ### LINES installs and starts (R146, R148) -/

/-- What a LINES section gives one line (R127). -/
structure LineSetup where
  kind : LineKind
  q    : Nat
  w    : Nat
  deriving DecidableEq, Repr

/-- The state a line of changed kind takes (R146 step 4). -/
def LineKind.fresh : LineKind → LineState
  | .coded => .inStep
  | .disabled => .disabled
  | .minute => .unknown
  | .halfMinute => .unknown

/-- The line states that an install of an unchanged kind takes to IN_STEP (R146 step 4). -/
def LineState.resets : LineState → Bool
  | .advanceWait | .advancing | .holding => true
  | .unknown | .inStep | .stopped | .fault | .disabled => false

/-- Line l whose kind is unchanged (R146 step 4). -/
def State.installSameKind (l : LineId) (s : State) : State :=
  if (s.clock l).state.resets then
    (s.setLineState l .inStep .load).onClock l fun r => { r with fastTimer := none }
  else s

/-- Line l whose kind has changed (R146 step 4). -/
def State.installNewKind (l : LineId) (s : State) : State :=
  ((s.clearInflight l).onClock l fun r =>
    { r with stopped := false, failCount := 0, reeval := false, fastTimer := none, probeTimer := none
             probeAsked := false, outputOff := false, display := none, polarity := .a }).setLineState l
    (s.clock l).kind.fresh .load

/-- Line l takes its setup while RUNNING (R146 steps 3 and 4). -/
def State.installLine (l : LineId) (x : LineSetup) (s : State) : State :=
  let same := (s.clock l).kind = x.kind
  let s1 := s.onClock l fun r => { r with kind := x.kind, q := x.q, w := x.w }
  if same then s1.installSameKind l else s1.installNewKind l

/-- A LINES section is installed while RUNNING (R146). -/
def State.installLines (budget : Nat) (xs : Tab LineSetup 8) (s : State) : State :=
  let s1 := s.onLine fun d => { d with grants := [], waiting := [], budget := budget }
  let s2 := s1.each (allOf 8) fun l => State.installLine l (xs.at l)
  s2.lineRunning

/-- A line at a start, from its setup and the retained block (R148). -/
def lineAtStart (valid : Bool) (x : LineSetup) (r : RetLine) : Line :=
  let keep := valid && r.kind == x.kind
  let display := if keep && x.kind.impulses then r.display else none
  let stopped := keep && r.stopped && x.kind != .disabled
  let state : LineState :=
    if x.kind = .disabled then .disabled
    else if stopped then .stopped
    else if x.kind.impulses && display.isNone then .unknown
    else .inStep
  { kind := x.kind, q := x.q, w := x.w, display := display
    polarity := if keep then r.polarity else .a
    state := state, stopped := stopped, failCount := 0, inflight := none, reeval := false, fastTimer := none
    probeTimer := none, probeAsked := false, outputOff := false, last := none }

/-! ### Outputs (8.1, R129, R141) -/

/-- A line can drive its outputs: the part is RUNNING in NORMAL (R129, R141). -/
def State.outputsServed (s : State) : Bool := s.up && s.mainsOn

/-- The enable outputs of an impulse line (R129): the polarity of the impulse in flight, or none. -/
def State.enableDriven (s : State) (l : LineId) : Option Polarity :=
  match (s.clock l).inflight with
  | some imp => if imp.coded || !s.outputsServed then none else some imp.polarity
  | none => none

/-- The ten bit times of one byte of a frame, true for the A output on (R141): a start bit, eight data bits with the
least significant first, and a stop bit. A data bit 1 is A on, as the stop bit is (log entry 16). -/
def byteBits (b : Byte) : List Bool := false :: ((allOf 8).map fun i => b.getLsbD i.val) ++ [true]

/-- The 80 bit times of a frame of eight bytes (R141). -/
def frameBits (bytes : List Byte) : List Bool := bytes.flatMap byteBits

/-- The A output of a coded line is held on between frames (R141). -/
def State.codedHeldOn (s : State) (l : LineId) : Bool :=
  (s.clock l).kind == .coded && (s.clock l).state == .inStep && (s.clock l).inflight.isNone &&
    !(s.clock l).outputOff && s.outputsServed

/-- The A output of a coded line (R141): in bit time `bit` of the frame in flight as the frame has it; after its last bit
time and between frames as it is held, which is on in IN_STEP and off in any other state. -/
def State.codedOutput (s : State) (l : LineId) (bit : Nat) : Bool :=
  match (s.clock l).inflight with
  | some imp => imp.coded && s.outputsServed && (frameBits imp.bytes).getD bit ((s.clock l).state == .inStep)
  | none => s.codedHeldOn l

end Sys2Proof.Machine
end

