-- ==== Sys2Proof/Machine/Mirror.lean ====
section
/-! DEFINITION. The header and the mirror records as bytes, and their writing (R182, R183, 12.2, 12.5). -/

namespace Sys2Proof.Machine

/-- A byte of a mirror record, given the free byte of its address: a field without a value and without a
coding for that shows the free byte (log entry 7). -/
abbrev Shown := Byte → Byte

/-- Bytes that are stated. -/
def shown (bs : List Byte) : List Shown := bs.map fun b _ => b

/-- `n` bytes that are not stated. -/
def unstated (n : Nat) : List Shown := List.replicate n fun f => f

/-- A field that may have no value. -/
def shownOr {α : Type} (n : Nat) (f : α → List Byte) : Option α → List Shown
  | some a => shown (f a)
  | none => unstated n

/-! ### Bodies (12.5) -/

/-- A zone record's body. -/
def zoneBody (r : Zone) : List Shown :=
  shown (u8 r.building.val ++ u8 r.base.num ++
    u8 (bitNum r.dayQuiet + 2 * bitNum r.schedQuiet + 4 * bitNum r.fault) ++
    u8 (match r.override with | some o => o.mode.num | none => 255) ++ u8 r.effective.num ++
    u8 (orNone r.occupant) ++ u8 (orNone r.held) ++
    leBytes 5 (match r.override with | some o => o.expiry.getD 0 | none => 0))

/-- The origin kind of a session. -/
def Origin.num : Origin → Nat
  | .scheduler _ _ => 0 | .request _ _ => 1 | .console _ => 2 | .building _ _ => 3

/-- The source byte of session n. -/
def State.sourceByte (s : State) (n : SessId) (x : Session) : Nat :=
  match x.source with
  | .tone _ => 16 * (match s.genOf n with | some g => g.val | none => 15)
  | .player p _ _ => 1 + 16 * p.val
  | .console c => 2 + 16 * c.val

/-- A session record's body; a free record shows only that it is free. -/
def State.sessionBody (s : State) (n : SessId) : List Shown :=
  match s.sess n with
  | none => shown (u8 255) ++ unstated 27
  | some x => shown (u8 x.state.num ++ u8 x.cls.num ++ u8 x.origin.num ++ u8 (s.sourceByte n x) ++
      maskBytes x.connected ++ maskBytes x.waiting ++ maskBytes x.held)

/-- The place of a line in the waiting list, or 255. -/
def waitingPlace (l : LineId) (waiting : List LineId) : Nat :=
  if waiting.contains l then waiting.idxOf l else 255

/-- A line record's body. -/
def State.lineBody (s : State) (l : LineId) : List Shown :=
  let r := s.clock l
  let measured := r.kind.impulses && s.timeSet
  shown (u8 r.kind.num ++ u8 r.state.num ++ leBytes 2 (displayCode r.display)) ++
    (if r.kind.impulses then shown (u8 r.polarity.num) else unstated 1) ++
    (if measured then shown (leBytes 2 (s.lineTarget l)) else unstated 2) ++
    (match r.display with
      | some d => if measured then shown (leBytes 2 (s.lineLag l d)) else unstated 2
      | none => unstated 2) ++
    shown (u8 r.failCount ++ u8 (bitNum r.stopped + 2 * bitNum (s.line.grants.contains l)) ++
      u8 (waitingPlace l s.line.waiting) ++ u8 (match r.last with | some d => d.verdict.num | none => 255)) ++
    shownOr 3 (fun d : Decision => leBytes 3 d.expected) r.last ++ shown (List.replicate 12 0)

/-- A building record's body. -/
def State.buildingBody (s : State) (b : BuildingId) : List Shown :=
  let r := s.building b
  shown (u8 r.state.num ++ u8 (bitNum r.contact + 2 * bitNum r.muster + 4 * bitNum r.wanted) ++
      u8 r.sources.toNat) ++
    shownOr 1 (fun p : ProfileId => u8 p.val) r.profile ++ shown (u8 (orNone r.signal) ++
      leBytes 2 (match r.openRec with | some w => w.toNat | none => 0xFFFF) ++
      u8 (match r.timer with | some t => t.1.num | none => 0)) ++
    shownOr 3 (fun t : TimerKind × Nat => leBytes 3 (t.2 - s.now)) r.timer ++ shown [0]

/-- A group record's body. -/
def State.groupBody (s : State) (g : SchedId) : List Shown :=
  let r := s.groupWork g
  shown (u8 (bitNum r.working)) ++ shownOr 2 (leBytes 2) r.date ++ shown (leSigned 4 r.watermark ++
    u8 (orNone r.program) ++ u8 (orNone s.cal.todayType) ++ u8 (orNone (s.cal.selection g)) ++ [0, 0])

/-- The user count and step of a generator; the step of a FREE one is not stated. -/
def Generator.countByte (r : Generator) : Shown := fun f =>
  if r.playing then BitVec.ofNat 8 (r.users.length + 32 * r.step) else f &&& 0xE0#8

/-- A generator record's body. -/
def generatorBody (r : Generator) : List Shown :=
  shown (u8 (bitNum r.playing)) ++ shownOr 1 (fun c : Cls => u8 c.num) r.cls ++
    shownOr 1 (fun p : PatternId => u8 p.val) r.pattern ++ [r.countByte]

/-- A channel record's body. -/
def channelBody (r : Channel) : List Shown :=
  shown (u8 r.cls.num ++ u8 r.history.length ++ leBytes 2 (r.history.getLast?.getD 0xFFFF))

/-- The eleven receiver counters in the order of 1.6. -/
def RxCounters.list (c : RxCounters) : List Nat :=
  [c.parity, c.framing, c.overrun, c.checksum, c.format, c.range, c.weekday, c.gap, c.valid, c.acted,
    c.disagreement]

/-- The time and receiver record's body. -/
def State.timeBody (s : State) : List Shown :=
  shown (fit 60 (leBytes 4 s.time.stdSec ++ u8 s.time.eighth ++ u8 s.time.quality.num ++
    u8 (bitNum s.time.dstInForce) ++ leBytes 2 s.civil.day ++ leBytes 3 s.civil.sec ++
    leSigned 1 s.time.slewRem ++ leBytes 5 s.now ++ (s.time.counters.list.map (leBytes 2)).flatten ++
    u8 s.power.mains.num ++ leBytes 2 s.power.freq ++ u8 s.power.power.num ++ u8 (bitNum s.pins.batteryLow)))

/-! ### Writing (R182) -/

/-- A record with its update count before and after its body (R182). -/
def mirrorRecord (free base : Nat) (count : Word) (body : List Shown) : List Byte :=
  wordBytes count ++
    (numbered 0 body).map (fun kb => kb.2 (Config.unstatedByte free (base + 2 + kb.1))) ++ wordBytes count

/-- The 131 records, each with its first byte and body, in the order of 12.5. -/
def State.mirrorBodies (s : State) : List (Nat × List Shown) :=
  (allOf 64).map (fun z => (0x700 + 16 * z.val, zoneBody (s.zone z))) ++
  (allOf 16).map (fun n => (0xB00 + 32 * n.val, s.sessionBody n)) ++
  (allOf 8).map (fun l => (0xD00 + 32 * l.val, s.lineBody l)) ++
  (allOf 6).map (fun b => (0xE00 + 16 * b.val, s.buildingBody b)) ++
  (allOf 8).map (fun g => (0xE60 + 16 * g.val, s.groupBody g)) ++
  (allOf 4).map (fun g => (0xEE0 + 8 * g.val, generatorBody (s.gen g))) ++
  (allOf 24).map (fun k => (0xF00 + 8 * k.val, channelBody (s.channel k))) ++
  [(0xFC0, s.timeBody)]

/-- The update counts, each increased by one (R182). -/
def ReqHandler.countMirror (r : ReqHandler) : ReqHandler :=
  { r with mirrorCounts := r.mirrorCounts.map (· + 1) }

/-- A free value has been drawn. -/
def State.drawFree : State → State := State.onWork fun w => { w with free := w.free + 1 }

/-- The mirror's bytes, with the update counts as they stand. -/
def State.mirrorBytes (s : State) : List Byte :=
  (List.zipWith (fun c rec => mirrorRecord s.work.free rec.1 c rec.2) s.rh.mirrorCounts.toList
    s.mirrorBodies).flatten

/-- Every mirror record is rewritten (R182). The records lie one after another from 0x0700 on. -/
def State.writeMirror (s : State) : State :=
  let t := s.onRh ReqHandler.countMirror
  (t.onMem fun m => m.write 0x700 t.mirrorBytes).drawFree

/-- The place of building b's record among the update counts. -/
def buildingRecord (b : BuildingId) : Fin mirrorRecords := ⟨88 + b.val, by have := b.isLt; simp [mirrorRecords]; omega⟩

/-- Building b's record is rewritten (R107 step 5, R182). -/
def State.writeBuildingMirror (b : BuildingId) (s : State) : State :=
  let count := s.rh.mirrorCounts.at (buildingRecord b) + 1
  let base := 0xE00 + 16 * b.val
  ((s.onRh fun r => { r with mirrorCounts := r.mirrorCounts.put (buildingRecord b) count }).onMem
    fun m => m.write base (mirrorRecord s.work.free base count (s.buildingBody b))).drawFree

/-! ### The header (R183, 12.2) -/

/-- Part state (12.1). -/
def PartState.num : PartState → Nat
  | .starting => 0 | .running => 1

/-- The 256 bytes of the header. -/
def State.headerBytes (s : State) (valid : Bool) (pages : List Byte) : List Byte :=
  fit 256 (u8 s.power.part.num ++ u8 s.power.cause.num ++ wordBytes s.rh.revision ++ u8 (bitNum valid) ++ pages)

/-- The header's page fields as they stand. -/
def State.headerPages (s : State) : List Byte :=
  u8 (match s.rh.current with | some c => c.page.val | none => 255) ++ u8 s.rh.nextPage.val ++
    u8 s.rh.queue.length ++ leBytes 4 s.rh.dropped

/-- The header is rewritten at a standard second boundary (R183). -/
def State.writeHeader (s : State) : State :=
  s.onMem fun m => m.write 0 (s.headerBytes s.power.validAtStart s.headerPages)

/-- The header is written at start step 1, and again on entry to RUNNING with the validity (R183). -/
def State.writeStartHeader (valid : Bool) (s : State) : State :=
  s.onMem fun m => m.write 0 (s.headerBytes valid [])

end Sys2Proof.Machine
end

