-- ==== Sys2Proof/Machine/Buildings.lean ====
section
/-! DEFINITION. The Drill and Alarm Controller (chapter 7): transitions, signals, the log, alarms, drills, timers, and its requests. -/

namespace Sys2Proof.Machine

/-! ### The evacuation log (R123) -/

/-- The stamp of standard time now (R123). -/
def State.stamp (s : State) : Stamp := ⟨s.time.stdSec, s.time.eighth⟩

/-- A list with its first closed record removed. -/
def dropClosed : List LogRec → List LogRec
  | [] => []
  | r :: rs => if r.outcome = .stillOpen then r :: dropClosed rs else rs

/-- A record opens in the log, the oldest closed one giving way in a full log (R123). -/
def addRecord (r : LogRec) (log : List LogRec) : List LogRec :=
  (if log.length < 16 then log else dropClosed log) ++ [r]

/-- A record opens for building b (R123). An alarm's evacuation start is its start (R110). -/
def State.openRecord (b : BuildingId) (isAlarm : Bool) (profile : Option ProfileId) (evac : Option Stamp)
    (s : State) : State :=
  let serial := s.drill.serial
  let rec_ : LogRec :=
    { serial := serial, isAlarm := isAlarm, building := b, profile := profile, quality := s.time.quality
      start := s.stamp, preStart := s.stamp, evacStart := evac, muster := none, evacTime := none
      endTime := none, outcome := .stillOpen }
  (s.onDrill fun d => { d with log := addRecord rec_ d.log, serial := d.serial + 1 }).onBuilding b
    fun r => { r with openRec := some serial }

/-- A log record is building b's open one. -/
def LogRec.isOpenOf (r : LogRec) (b : BuildingId) : Bool := r.building == b && r.outcome == .stillOpen

/-- Building b's open record, if any. -/
def State.openRecordOf (s : State) (b : BuildingId) : Option LogRec :=
  if (s.building b).openRec.isSome then s.drill.log.find? fun r => r.isOpenOf b else none

/-- Building b's open record is changed. -/
def State.onOpenRecord (b : BuildingId) (f : LogRec → LogRec) : State → State :=
  State.onDrill fun d => { d with log := d.log.map fun r => if r.isOpenOf b then f r else r }

/-- The EVACUATION_RESULT of a record. -/
def LogRec.resultReport (r : LogRec) (out : LogOutcome) : Report :=
  .evacuationResult r.serial r.building r.profile out r.evacTime

/-- Building b's open record closes; a DRILL record writes EVACUATION_RESULT (R123). -/
def State.closeRecord (b : BuildingId) (out : LogOutcome) (s : State) : State :=
  match s.openRecordOf b with
  | none => s
  | some r =>
    let t := (s.onOpenRecord b fun r => { r with endTime := some s.stamp, outcome := out }).onBuilding b
      fun r => { r with openRec := none }
    if r.isAlarm then t else t.report (r.resultReport out)

/-- The evacuation time of a press, in eighths, at most 65535 (R118, R123). -/
def evacTimeOf (now since : Nat) : Nat := min (now - since) 65535

/-- Building b's open record takes a muster time and its evacuation time (R118). -/
def State.stampMuster (b : BuildingId) (s : State) : State :=
  s.onOpenRecord b fun r =>
    { r with muster := some s.stamp, evacTime := (s.building b).evacFrom.map (evacTimeOf s.now) }

/-! ### Signals (R93, R107, R108) -/

/-- The profile of building b's drill. -/
def State.profileOf (s : State) (b : BuildingId) : Option Profile :=
  match (s.building b).profile with
  | some p => s.drill.profiles.at p
  | none => none

/-- What building b's state asks for: kind, class, source and duration (7.2). -/
def State.signalParts (s : State) (b : BuildingId) : Option (SignalKind × Cls × Source × Option Nat) :=
  match (s.building b).state, s.profileOf b with
  | .alerted, _ => some (.alarmElsewhere, .alert, .tone 1, none)
  | .alarm, _ => some (.evacuation, .evacuate, .tone 0, none)
  | .prealert, some p => some (.preAlert, .drill, match p.preAlert with
      | .tone t => .tone t
      | .player q m n => .player q m n, none)
  | .evacuating, some p => some (.drillEvacuation, .drill, .tone p.evacPattern, none)
  | .standingDown, some p => some (.allClear, .drill, .tone p.clearPattern, some p.clearDuration)
  | .standingDown, none => some (.allClear, .drill, .tone 3, some 40)
  | _, _ => none

/-- The session building b's state asks for (R93). -/
def State.signalAsk (s : State) (b : BuildingId) : Option SessionAsk :=
  (s.signalParts b).map fun p =>
    { cls := p.2.1, origin := .building b p.1, source := p.2.2.1, zones := s.router.maps.at b, suppressed := 0
      duration := p.2.2.2, deferLimit := 0 }

/-- A stand-down of building b is to end (R122). -/
def State.pushStandDown (b : BuildingId) : State → State :=
  State.onWork fun w => { w with standDowns := w.standDowns ++ [b] }

/-- The answer to an ask for building b's signal is dealt with (R108). -/
def State.takeAnswer (b : BuildingId) (answer : Option SessId) (s : State) : State :=
  match answer with
  | none => s.onBuilding b fun r => { r with signal := none, wanted := true }
  | some n =>
    if (s.sess n).isSome then s.onBuilding b fun r => { r with signal := some n, wanted := false }
    else
      let t := s.onBuilding b fun r => { r with signal := none, wanted := false }
      if (s.building b).state = .standingDown then t.pushStandDown b else t

/-- Building b's signal is asked for, if its state has one (R108). -/
def State.askSignal (b : BuildingId) (s : State) : State :=
  match s.signalAsk b with
  | none => s
  | some a => (s.createSession a).1.takeAnswer b (s.createSession a).2

/-! ### Transitions (R107) -/

/-- A transition: the new state, its cause, what step 3 does to the log and the record, and the new timer. -/
structure Move where
  new   : BState
  cause : BuildingCause
  log   : State → State
  timer : Option (TimerKind × Nat)

/-- Building b's signal ends (R107 step 1). -/
def State.endSignal (b : BuildingId) (s : State) : State :=
  match (s.building b).signal with
  | some n => s.endSession n .building
  | none => s

/-- Building b's new state is announced to the Zone Router and then to the Bell Scheduler (R107 step 4). -/
def State.announce (b : BuildingId) (st : BState) (s : State) : State :=
  (s.takeBuildingState b st).bellBuildingState b st

/-- One transition of building b (R107). -/
def State.transitionCore (b : BuildingId) (m : Move) (s : State) : State :=
  let old := (s.building b).state
  let s1 := (s.endSignal b).onBuilding b fun r => { r with signal := none, wanted := false, timer := none }
  let s2 := m.log (s1.onBuilding b fun r => { r with state := m.new })
  let s3 := ((s2.announce b m.new).report (.buildingState b old m.new m.cause)).writeBuildingMirror b
  (s3.onBuilding b fun r => { r with timer := m.timer }).askSignal b

/-- The outcome a DRILL record closes with (R122). -/
def DrillOutcome.closing : Option DrillOutcome → LogOutcome
  | some .timedOut => .timedOut
  | some .aborted => .aborted
  | some .completed => .completed
  | none => .completed

/-- The log at the end of a stand-down (R122). -/
def State.closeStandDown (b : BuildingId) (s : State) : State :=
  let out := match s.openRecordOf b with
    | some r => if r.isAlarm then .alarmCleared else DrillOutcome.closing (s.building b).outcome
    | none => .alarmCleared
  (s.closeRecord b out).onBuilding b fun r => { r with profile := none, outcome := none }

/-- The transition that ends building b's stand-down (R122). -/
def State.standDownMove (s : State) (b : BuildingId) : Move :=
  { new := if (s.building b).sources = 0 then .quiet else .alerted
    cause := .signalEnd, log := State.closeStandDown b, timer := none }

/-- A stand-down of building b ends, if it still stands (R122). -/
def State.endStandDown (b : BuildingId) (s : State) : State :=
  if (s.building b).state = .standingDown && (s.building b).signal.isNone && !(s.building b).wanted then
    s.transitionCore b (s.standDownMove b)
  else s

/-- The stand-downs that are to end are ended; each takes a building out of STANDING_DOWN, so the rounds
given are enough. -/
def State.drainStandDowns : Nat → State → State
  | 0, s => s
  | k + 1, s =>
    match s.work.standDowns with
    | [] => s
    | b :: rest =>
      State.drainStandDowns k ((s.onWork fun w => { w with standDowns := rest }).endStandDown b)

/-- A transition of building b, with the stand-downs it ends at once (R107, R122): its own, and another building's whose
all-clear its signal has cut, which ends right after it, before a spread that follows (log entry 22). -/
def State.transition (b : BuildingId) (m : Move) (s : State) : State := (s.transitionCore b m).drainStandDowns 12

/-! ### Asking again (R108) -/

/-- The class of the signal that building b wants (7.2). -/
def State.wantedClass (s : State) (b : BuildingId) : Option Cls := (s.signalParts b).map fun p => p.2.1

/-- The buildings whose signal is wanted, by class, then by number (R108). -/
def State.wantedBuildings (s : State) : List BuildingId :=
  [Cls.evacuate, .alert, .drill].flatMap fun c =>
    (allOf 6).filter fun b => (s.building b).wanted && s.wantedClass b == some c

/-- Building b asks again, if its signal is still wanted (R108). -/
def State.askAgain (b : BuildingId) (s : State) : State := if (s.building b).wanted then s.askSignal b else s

/-- What is left of an event once it is dealt with: stand-downs end (R122), and after a session has left the
table the wanted signals are asked for again (R108). -/
def State.settleSignals : Nat → State → State
  | 0, s => s
  | k + 1, s =>
    let s1 := s.drainStandDowns 12
    if s1.work.ended then
      let s2 := s1.onWork fun w => { w with ended := false }
      State.settleSignals k (s2.each s2.wantedBuildings State.askAgain)
    else s1

/-- One event carried out, whole: with the signals it leaves to ask for, and what it changed of the crosspoint seen
(R79, R108, R122). -/
def State.whole (s : State) : State := (s.settleSignals 24).noteSelections

/-! ### Alarms (R110 to R112) -/

/-- The log at a closure (R110). -/
def State.closureLog (b : BuildingId) (s : State) : State :=
  let clear := State.onBuilding b fun r => { r with profile := none, outcome := none }
  let opened (t : State) : State :=
    (t.openRecord b true none (some t.stamp)).onBuilding b fun r => { r with evacFrom := some t.now }
  match s.openRecordOf b with
  | some r => if r.isAlarm then clear s else clear (opened (s.closeRecord b .interruptedByAlarm))
  | none => clear (opened s)

/-- Building b alerts building t (R111). -/
def State.alertOne (b t : BuildingId) (s : State) : State :=
  let s1 := s.onBuilding t fun r => { r with sources := Mask.add r.sources b.val }
  if (s1.building t).state = .quiet then
    s1.transition t { new := .alerted, cause := .spread, log := id, timer := none }
  else s1

/-- The alarm of building b spreads (R111). -/
def State.spreadAlarm (b : BuildingId) (s : State) : State :=
  s.each ((Mask.members (s.router.spread.at b)).filter (· != b)) (State.alertOne b)

/-- A closure of building b's contact (R110). -/
def State.closure (b : BuildingId) (s : State) : State :=
  if (s.building b).state = .alarm then s
  else (s.transition b { new := .alarm, cause := .contact, log := State.closureLog b, timer := none }).spreadAlarm b

/-- Building b leaves the alerting sources of building t (R112). -/
def State.unalertOne (b t : BuildingId) (s : State) : State :=
  let s1 := s.onBuilding t fun r => { r with sources := Mask.del r.sources b.val }
  if (s1.building t).state = .alerted && (s1.building t).sources = 0 then
    s1.transition t { new := .quiet, cause := .sourcesCleared, log := id, timer := none }
  else s1

/-- Building b leaves the alerting sources of every building that holds it (R112). -/
def State.unalert (b : BuildingId) (s : State) : State :=
  s.each ((allOf 6).filter fun t => Mask.has (s.building t).sources b.val) (State.unalertOne b)

/-! ### Requests on buildings (R109) -/

/-- HUSH on building b (R113). -/
def State.hushOne (b : BuildingId) (s : State) : State × Code :=
  if (s.building b).state = .alarm then
    ((s.transition b { new := .alarmHushed, cause := .hush, log := id, timer := none }).unalert b, .ok)
  else (s, .state)

/-- The transition to STANDING_DOWN. -/
def standDownTo (cause : BuildingCause) : Move :=
  { new := .standingDown, cause := cause, log := id, timer := none }

/-- ALL_CLEAR on building b (R114). -/
def State.allClearOne (b : BuildingId) (s : State) : State × Code :=
  match (s.building b).state with
  | .alarm =>
    if (s.building b).contact then (s, .contactActive)
    else ((s.transition b (standDownTo .allClear)).unalert b, .ok)
  | .alarmHushed =>
    if (s.building b).contact then (s, .contactActive) else (s.transition b (standDownTo .allClear), .ok)
  | .mustered => (s.transition b (standDownTo .allClear), .ok)
  | _ => (s, .state)

/-- The timer AUTO of building b's profile, from now (R118, R119). -/
def State.autoTimer (s : State) (b : BuildingId) : Option (TimerKind × Nat) :=
  match s.profileOf b with
  | some p => if p.autoSec = 0 then none else some (.auto, s.now + 8 * p.autoSec)
  | none => none

/-- The timer LIMIT of a profile, from now (R117). -/
def limitTimer (p : Option Profile) (now : Nat) : Option (TimerKind × Nat) :=
  p.map fun p => (.limit, now + 8 * p.limitSec)

/-- The evacuation start is stamped (R117). -/
def State.stampEvacStart (b : BuildingId) (s : State) : State :=
  (s.onOpenRecord b fun r => { r with evacStart := some s.stamp }).onBuilding b
    fun r => { r with evacFrom := some s.now }

/-- A DRILL record opens for building b with profile n (R116). -/
def State.openDrill (b : BuildingId) (n : ProfileId) (s : State) : State :=
  (s.openRecord b false (some n) none).onBuilding b fun r => { r with profile := some n, outcome := none }

/-- The first transition of a drill of building b with profile n (R116). -/
def State.startDrill (n : ProfileId) (p : Profile) (b : BuildingId) (s : State) : State :=
  if p.preAlertSec = 0 then
    s.transition b { new := .evacuating, cause := .drillStart, timer := limitTimer (some p) s.now,
                     log := fun t => (t.openDrill b n).stampEvacStart b }
  else
    s.transition b { new := .prealert, cause := .drillStart, log := State.openDrill b n,
                     timer := some (.prealert, s.now + 8 * p.preAlertSec) }

/-- DRILL_START on building b with profile n (R116). -/
def State.drillStartOne (n : ProfileId) (p : Profile) (b : BuildingId) (s : State) : State × Code :=
  match (s.building b).state with
  | .alarm => (s, .contactActive)
  | .alarmHushed => (s, .contactActive)
  | .quiet => (s.startDrill n p b, .ok)
  | .alerted => (s.startDrill n p b, .ok)
  | _ => (s, .busy)

/-- DRILL_ABORT on building b (R121). -/
def State.drillAbortOne (b : BuildingId) (s : State) : State × Code :=
  let abort : State × Code :=
    (s.transition b { standDownTo .abort with log := State.onBuilding b fun r => { r with outcome := some .aborted } },
      .ok)
  match (s.building b).state with
  | .prealert => abort
  | .evacuating => abort
  | .mustered => abort
  | _ => (s, .state)

/-- The named buildings are dealt with in turn; what comes out is each one's outcome (R109). -/
def State.eachNamed (f : BuildingId → State → State × Code) : List BuildingId → State → State × List (BuildingId × Code)
  | [], s => (s, [])
  | b :: bs, s =>
    let r := f b s
    let rest := State.eachNamed f bs r.1
    (rest.1, (b, r.2) :: rest.2)

/-- The outcome nibble of building b; 15 is "not named" (12.3). -/
def outcomeNibble (outs : List (BuildingId × Code)) (b : BuildingId) : Nat :=
  match outs.find? fun o => o.1 == b with
  | some o => o.2.num
  | none => 15

/-- The three bytes of building outcomes (12.3). -/
def outcomeBytes (outs : List (BuildingId × Code)) : List Byte :=
  leBytes 3 ((allOf 6).map fun b => outcomeNibble outs b * 16 ^ b.val).sum

/-- The code of a request on buildings: OK when one outcome is OK, or else the lowest-numbered named
building's (R109). -/
def overallCode (outs : List (BuildingId × Code)) : Code :=
  if outs.any fun o => o.2 == .ok then .ok
  else match outs with
    | o :: _ => o.2
    | [] => .badParam

/-- A building mask that names some building and none above 5 (R109). -/
def maskOf (mask : Nat) : Option BuildingSet := if 0 < mask && mask < 64 then some (BitVec.ofNat 6 mask) else none

/-- HUSH, ALL_CLEAR or DRILL_ABORT judged and carried out (R109). -/
def State.takeBuildings (f : BuildingId → State → State × Code) (mask : Nat) (s : State) : State × Answer :=
  match maskOf mask with
  | none => (s, .plain .badParam)
  | some m =>
    let (t, outs) := s.eachNamed f (Mask.members m)
    (t, ⟨overallCode outs, 0, outcomeBytes outs⟩)

/-- The serial of the record DRILL_START opened for building b, from the log serial before it, or 0 (12.3): each
building taken OK opens one record. -/
def serialOpened (first : Word) (outs : List (BuildingId × Code)) (b : BuildingId) : Nat :=
  match outs.findIdx? fun o => o.1 == b && o.2 == .ok with
  | some i => (first + BitVec.ofNat 16 ((outs.take i).filter fun o => o.2 == .ok).length).toNat
  | none => 0

/-- DRILL_START judged and carried out (R109, R116). -/
def State.takeDrillStart (mask profile : Nat) (s : State) : State × Answer :=
  match maskOf mask, asFin 8 profile with
  | some m, some n =>
    match s.drill.profiles.at n with
    | none => (s, .plain .badParam)
    | some p =>
      let (t, outs) := s.eachNamed (State.drillStartOne n p) (Mask.members m)
      (t, ⟨overallCode outs, 0, outcomeBytes outs ++ [0] ++
        (allOf 6).flatMap fun b => leBytes 2 (serialOpened s.drill.serial outs b)⟩)
  | _, _ => (s, .plain .badParam)

/-! ### Timers and inputs (R105, R106, R117 to R120) -/

/-- Building b's timer of a kind has come to its expiry. -/
def State.timerDue (s : State) (b : BuildingId) (k : TimerKind) : Bool :=
  s.up && match (s.building b).timer with
    | some t => t.1 == k && decide (t.2 ≤ s.now)
    | none => false

/-- The PREALERT timer (R117). -/
def State.prealertExpire (b : BuildingId) (s : State) : State :=
  if s.timerDue b .prealert then
    (s.transition b { new := .evacuating, cause := .prealertEnd, log := State.stampEvacStart b,
                      timer := limitTimer (s.profileOf b) s.now }).whole
  else s

/-- The LIMIT timer (R119). -/
def State.limitExpire (b : BuildingId) (s : State) : State :=
  if s.timerDue b .limit then
    (s.transition b { new := .mustered, cause := .limit, timer := s.autoTimer b,
                      log := State.onBuilding b fun r => { r with outcome := some .timedOut } }).whole
  else s

/-- The AUTO timer (R120). -/
def State.autoExpire (b : BuildingId) (s : State) : State :=
  if s.timerDue b .auto then (s.transition b (standDownTo .auto)).whole else s

/-- A muster press of building b (R118). -/
def State.musterActs (b : BuildingId) (s : State) : State :=
  let stampAlarm : State :=
    match s.openRecordOf b with
    | some r => if r.isAlarm && r.muster.isNone then s.stampMuster b else s
    | none => s
  match (s.building b).state with
  | .evacuating =>
    (s.transition b { new := .mustered, cause := .muster, timer := s.autoTimer b,
                      log := fun t => (t.stampMuster b).onBuilding b
                        fun r => { r with outcome := some .completed } }).whole
  | .alarm => stampAlarm
  | .alarmHushed => stampAlarm
  | _ => s

/-- Building b's contact has held the other level long enough (R105). -/
def State.contactDue (s : State) (b : BuildingId) : Bool := decide (Config.contactSamples ≤ (s.building b).contactCount)

/-- The debounced contact changes to the level held (R105). -/
def State.toggleContact (b : BuildingId) : State → State :=
  State.onBuilding b fun r => { r with contact := !r.contact, contactCount := 0 }

/-- A debounced closure of building b (R105, R110). -/
def State.contactCloses (b : BuildingId) (s : State) : State :=
  if s.up && s.contactDue b && !(s.building b).contact then ((s.toggleContact b).closure b).whole else s

/-- A debounced opening of building b (R105). -/
def State.contactOpens (b : BuildingId) (s : State) : State :=
  if s.up && s.contactDue b && (s.building b).contact then s.toggleContact b else s

/-- Building b's muster button has held the other level long enough (R106). -/
def State.musterDue (s : State) (b : BuildingId) : Bool := decide (Config.keySamples ≤ (s.building b).musterCount)

/-- The debounced button changes to the level held (R106). -/
def State.toggleMuster (b : BuildingId) : State → State :=
  State.onBuilding b fun r => { r with muster := !r.muster, musterCount := 0 }

/-- A debounced muster press (R106, R118). -/
def State.musterPresses (b : BuildingId) (s : State) : State :=
  if s.up && s.musterDue b && !(s.building b).muster then (s.toggleMuster b).musterActs b else s

/-- A debounced muster release (R106). -/
def State.musterReleases (b : BuildingId) (s : State) : State :=
  if s.up && s.musterDue b && (s.building b).muster then s.toggleMuster b else s

/-! ### Conditions and RUNNING (R115, R126) -/

/-- Building b is in a drill state (R115). -/
def State.inDrill (s : State) (b : BuildingId) : Bool :=
  match (s.building b).state with
  | .prealert => true
  | .evacuating => true
  | .mustered => true
  | .standingDown => match s.openRecordOf b with
    | some r => !r.isAlarm
    | none => false
  | _ => false

/-- One record of the log at RUNNING: an open one closes POWER_LOST (R126). -/
def LogRec.powerLost (now : Stamp) (r : LogRec) : LogRec :=
  if r.outcome = .stillOpen then { r with endTime := some now, outcome := .powerLost } else r

/-- The open records close at RUNNING, each DRILL record with its EVACUATION_RESULT (R126 step 1). The order among
several, the oldest first, is the model's choice (log entry 66). -/
def State.closePowerLost (s : State) : State :=
  let lost := s.drill.log.filter fun r => r.outcome == .stillOpen && !r.isAlarm
  (s.onDrill fun d => { d with log := d.log.map (LogRec.powerLost s.stamp) }).each lost
    fun r => State.report (r.resultReport .powerLost)

/-- Building b is announced QUIET at RUNNING, offering no resume ring (R126 step 2). -/
def State.announceQuiet (b : BuildingId) (s : State) : State :=
  (s.takeBuildingState b .quiet).onBell fun r => { r with viewQuiet := r.viewQuiet.put b true }

/-- The controller at RUNNING (R126). -/
def State.drillRunning (s : State) : State :=
  let s1 := s.closePowerLost.each (allOf 6) State.announceQuiet
  s1.each ((allOf 6).filter fun b => (s1.building b).contact) State.closure

end Sys2Proof.Machine
end

