-- ==== Sys2Proof/Machine/SessionEvents.lean ====
section
/-! DEFINITION. What reaches the session side and the Tone Bank: durations, limits, players, consoles, generator phases, and the requests ANNOUNCE, CANCEL and CONSOLE_SET (chapters 5 and 6). -/

namespace Sys2Proof.Machine

/-! ### Overrides (R63) -/

/-- Zone z's override is released at its expiry, and the event is carried out whole (R63). -/
def State.overrideExpiry (z : ZoneId) (s : State) : State :=
  if s.overrideDue z then (s.expireOverride z).whole else s

/-! ### Limits and durations (R77, R78, R82, R102) -/

/-- Session n's defer limit has come with zones still deferred (R77). -/
def State.deferDue (s : State) (n : SessId) : Bool :=
  s.up && match s.sess n with
    | some x => x.cls == .bell && x.deferred != 0 && decide (x.createdAt + x.deferLimit ≤ s.now)
    | none => false

/-- The deferred zones of session n are judged afresh at its limit (R77); one at fault is lost
(R64, log entry 59). -/
def State.deferExpire (n : SessId) (s : State) : State :=
  match s.sess n with
  | some x =>
    if s.deferDue n then (s.each (Mask.members x.deferred) (State.judge false n)).settle.whole else s
  | none => s

/-- Session n's duration has run (R78). -/
def State.durationDue (s : State) (n : SessId) : Bool :=
  s.up && match s.sess n with
    | some x => match x.activeAt, x.duration with
      | some t, some d => decide (t + d ≤ s.now)
      | _, _ => false
    | none => false

/-- A session ends DURATION (R78). -/
def State.durationEnd (n : SessId) (s : State) : State :=
  if s.durationDue n then (s.endSession n .duration).whole else s

/-- Session n has been PAUSED too long (R82). -/
def State.abandonDue (s : State) (n : SessId) : Bool :=
  s.up && match s.sess n with
    | some x => x.state == .paused && match x.pausedAt with
      | some t => decide (t + Config.pauseLimit ≤ s.now)
      | none => false
    | none => false

/-- A PAUSED session ends ABANDONED (R82). -/
def State.pauseAbandon (n : SessId) (s : State) : State :=
  if s.abandonDue n then (s.endSession n .abandoned).whole else s

/-- Session n is a BELL that has waited for a generator to its limit (R102). -/
def State.giveUpDue (s : State) (n : SessId) : Bool :=
  s.up && s.tone.waitList.contains n && match s.sess n with
    | some x => x.cls == .bell && decide (x.createdAt + x.deferLimit ≤ s.now)
    | none => false

/-- A waiting BELL ends NO_SOURCE (R102). -/
def State.giveUp (n : SessId) (s : State) : State :=
  if s.giveUpDue n then (s.endSession n .noSource).whole else s

/-! ### Players (R81) -/

/-- PLAYING of player p as sampled. -/
def State.playing (s : State) (p : PlayerId) : Bool := Mask.has s.pins.playing p.val

/-- A boundary has sampled PLAYING since player p's cue strobe (R81): the sample that stands was taken at the
present elapsed count (log entry 46). -/
def State.sampledSinceStrobe (s : State) (p : PlayerId) : Bool :=
  match (s.player p).strobeAt with
  | some t => decide (t < s.now)
  | none => false

/-- A sample of PLAYING that starts a repetition is seen (R81): the one that stands is high, and PAUSE was not asserted at
the boundary that took it, whatever PAUSE has become since (log entry 46). -/
def State.riseDue (s : State) (p : PlayerId) : Bool :=
  s.up && (s.player p).current.isSome && s.sampledSinceStrobe p && !(s.player p).pauseAtLast && s.playing p

/-- The repetition starts (R81). -/
def State.playingRise (p : PlayerId) (s : State) : State :=
  if s.riseDue p then s.onPlayer p fun r => { r with started := true, strobeAt := none } else s

/-- A fall of PLAYING that ends a repetition is seen (R81). -/
def State.fallDue (s : State) (p : PlayerId) : Bool :=
  s.up && (s.player p).current.isSome && (s.player p).started && !s.playing p

/-- The repetition has ended: the next is cued, or the session ends PLAYER_DONE (R81). -/
def State.playingFall (p : PlayerId) (s : State) : State :=
  if s.fallDue p then
    match (s.player p).current with
    | none => s
    | some n =>
      if 0 < (s.player p).repsLeft then
        s.onPlayer p fun r => { r with repsLeft := r.repsLeft - 1 }.cue r.cueBus s.now
      else (s.endSession n .playerDone).whole
  else s

/-- PLAYING has not come by 16 eighths after the strobe (R81). -/
def State.cueDue (s : State) (p : PlayerId) : Bool :=
  s.up && !s.riseDue p && match (s.player p).strobeAt with
    | some t => decide (t + Config.cueLimit ≤ s.now)
    | none => false

/-- The session ends NO_PLAYER (R81). -/
def State.cueTimeout (p : PlayerId) (s : State) : State :=
  match (s.player p).current with
  | some n => if s.cueDue p then (s.endSession n .noPlayer).whole else s
  | none => s

/-! ### Consoles (R83 to R85) -/

/-- What a PTT press asks for (R83). -/
def State.pageAsk (s : State) (c : ConsoleId) (g : ZoneGroupId) : SessionAsk :=
  { cls := if (s.console c).emergency && (s.console c).alertCeiling then .alert else .page
    origin := .console c, source := .console c, zones := s.router.groups.at g, suppressed := 0
    duration := none, deferLimit := 0 }

/-- Console c's key has held its new level for 1 eighth (R83). -/
def keyDue (count : Nat) : Bool := decide (Config.keySamples ≤ count)

/-- What a press of console c's PTT does (R83). -/
def State.pressActs (c : ConsoleId) (s : State) : State :=
  match (s.console c).target with
  | none => s.onConsole c fun r => { r with refusedMark := true }
  | some g =>
    match s.createSession (s.pageAsk c g) with
    | (t, none) => t.onConsole c fun r => { r with refusedMark := true }
    | (t, some n) =>
      (t.onConsole c fun r => { r with session := if (t.sess n).isSome then some n else none }).whole

/-- A debounced PTT press (R83). -/
def State.pttPress (c : ConsoleId) (s : State) : State :=
  if s.up && keyDue (s.console c).pttCount && !(s.console c).ptt then
    (s.onConsole c fun r => { r with ptt := true, pttCount := 0 }).pressActs c
  else s

/-- What a release of console c's PTT does (R84). -/
def State.releaseActs (c : ConsoleId) (s : State) : State :=
  let t := s.onConsole c fun r => { r with refusedMark := false }
  match (t.console c).session with
  | some n => (t.endSession n .pttRelease).whole
  | none => t

/-- A debounced PTT release (R84). -/
def State.pttRelease (c : ConsoleId) (s : State) : State :=
  if s.up && keyDue (s.console c).pttCount && (s.console c).ptt then
    (s.onConsole c fun r => { r with ptt := false, pttCount := 0 }).releaseActs c
  else s

/-- The debounced emergency key changes (R83). -/
def State.emergencyChange (c : ConsoleId) (s : State) : State :=
  if s.up && keyDue (s.console c).emerCount then
    s.onConsole c fun r => { r with emergency := !r.emergency, emerCount := 0 }
  else s

/-- A ceiling as a class code (12.3). -/
def ceilingCode (alert : Bool) : Nat := if alert then Cls.alert.num else Cls.page.num

/-- A ceiling by its code. -/
def ceilingOf (v : Nat) : Option Bool :=
  if v = Cls.alert.num then some true else if v = Cls.page.num then some false else none

/-- A console's target by its code: a group, or 255 for none (R85). -/
def consoleTarget (v : Nat) : Option (Option ZoneGroupId) :=
  if v = 255 then some none else (asFin 128 v).map some

/-- CONSOLE_SET judged and carried out (R85). -/
def State.takeConsoleSet (console group ceiling : Nat) (s : State) : State × Answer :=
  match asFin 2 console, consoleTarget group, ceilingOf ceiling with
  | some c, some t, some a =>
    (s.onConsole c fun r => { r with target := t, alertCeiling := a },
      ⟨.ok, 0, u8 (orNone (s.console c).target) ++ u8 (ceilingCode (s.console c).alertCeiling)⟩)
  | _, _, _ => (s, .plain .badParam)

/-! ### ANNOUNCE (R86, R87) -/

/-- An ANNOUNCE's parameters (12.3). -/
structure AnnounceParams where
  cls        : Nat
  source     : Nat
  which      : Nat
  message    : Byte
  repeats    : Nat
  duration   : Nat
  deferLimit : Nat
  kind       : Nat
  group      : Nat
  mask       : ZoneSet
  deriving DecidableEq, Repr

/-- The class of an ANNOUNCE and whether it was clamped; none is BAD_PARAM (R86). -/
def announceClass (v : Nat) : Option (Cls × Bool) :=
  match clsOf v with
  | none => none
  | some .drill => none
  | some .evacuate => some (.alert, true)
  | some c => some (c, false)

/-- The source and the duration of an ANNOUNCE and whether either was clamped; none is BAD_PARAM (R86). -/
def announceSource (p : AnnounceParams) : Option (Source × Option Nat × Bool) :=
  match p.source with
  | 0 => (asFin 8 p.which).map fun t =>
      let d := clampTo 1 2400 p.duration
      (.tone t, some d.1, d.2)
  | 1 => (asFin 2 p.which).map fun q =>
      let n := clampTo 1 4 p.repeats
      (.player q p.message n.1, none, n.2)
  | _ => none

/-- How many requested zones a new session has refused (R70 step 4). -/
def State.refusedCount (s : State) (a : SessionAsk) : Nat :=
  Mask.count (s.refusedFor a .notAdmitted) + Mask.count (s.refusedFor a .faulted) +
    Mask.count (s.refusedFor a .suppressed)

/-- ANNOUNCE's result area (R87, 12.3). -/
def announceResult (n : SessId) (after : Option Session) (refused : Nat) : List Byte :=
  match after with
  | some x => u8 n.val ++ u8 x.state.num ++ u8 (Mask.count x.connected) ++
      u8 (Mask.count (x.waiting ||| x.deferred)) ++ u8 refused ++ u8 0
  | none => u8 n.val ++ u8 0 ++ u8 0 ++ u8 0 ++ u8 refused ++ u8 1

/-- An ANNOUNCE that passed its checks asks for its session (R87). -/
def State.announceWith (a : SessionAsk) (clamped : Bool) (s : State) : State × Answer :=
  match s.createSession a with
  | (t, none) => (t, .plain .tableFull)
  | (t, some n) => (t, ⟨okOr clamped, 0, announceResult n (t.sess n) (s.refusedCount a)⟩)

/-- ANNOUNCE judged and carried out (R86, R87). -/
def State.takeAnnounce (cell : CellId) (tag : Word) (p : AnnounceParams) (s : State) : State × Answer :=
  match announceClass p.cls, announceSource p, targetOf p.kind p.group p.mask with
  | some (c, c1), some (src, dur, c2), some t =>
    let d := clampTo 0 240 p.deferLimit
    if c.yields && !s.mainsOn then (s, .plain .state)
    else s.announceWith
      { cls := c, origin := .request cell tag, source := src, zones := s.resolve t, suppressed := 0
        duration := dur, deferLimit := d.1 } (c1 || c2 || d.2)
  | _, _, _ => (s, .plain .badParam)

/-! ### CANCEL (R88) -/

/-- A session's origin is a building. -/
def Origin.isBuilding : Origin → Bool
  | .building _ _ => true
  | _ => false

/-- A session's origin is a request with a tag. -/
def Origin.hasTag (tag : Word) : Origin → Bool
  | .request _ t => t == tag
  | _ => false

/-- CANCEL BY_NUMBER (R88). -/
def State.cancelNumber (number : Nat) (s : State) : State × Answer :=
  match asFin 16 number with
  | none => (s, .plain .badParam)
  | some n =>
    match s.sess n with
    | none => (s, .plain .noSession)
    | some x =>
      if x.origin.isBuilding then (s, .plain .state)
      else (s.endSession n .cancelled, ⟨.ok, 0, u8 1⟩)

/-- CANCEL BY_TAG (R88). -/
def State.cancelTag (tag : Word) (s : State) : State × Answer :=
  let ns := s.sessionsWith fun x => x.origin.hasTag tag
  if ns.isEmpty then (s, .plain .noSession)
  else (s.endSessions ns .cancelled, ⟨.ok, 0, u8 ns.length⟩)

/-- CANCEL judged and carried out (R88). -/
def State.takeCancel (mode number : Nat) (tag : Word) (s : State) : State × Answer :=
  match mode with
  | 0 => s.cancelNumber number
  | 1 => s.cancelTag tag
  | _ => (s, .plain .badParam)

/-! ### Generator phases (R95) -/

/-- The length of a phase of a step. -/
def ToneStep.phase (x : ToneStep) (on : Bool) : Nat := if on then x.on else x.off

/-- The first phase of some length at or after a place, gone round at most once; with its length (R95). -/
def findPhase (copy : List ToneStep) : Nat → Nat → Bool → Option (Nat × Bool × Nat)
  | 0, _, _ => none
  | k + 1, i, on =>
    match copy[i]? with
    | none => none
    | some x =>
      if x.phase on ≠ 0 then some (i, on, x.phase on)
      else if on then findPhase copy k i false
      else findPhase copy k ((i + 1) % copy.length) true

/-- The divider in a phase with some eighths of it left: tone A and tone B by turns, from A (R95, R97). -/
def dividerIn (copy : List ToneStep) (i : Nat) (on : Bool) (left : Nat) : Option Nat :=
  if on then
    match copy[i]? with
    | none => none
    | some x =>
      match x.toneB with
      | none => some x.toneA
      | some b => if (x.on - left) % 2 = 0 then some x.toneA else some b
  else none

/-- A generator enters the first phase at or after a place (R95). -/
def Generator.enter (i : Nat) (on : Bool) (g : Generator) : Generator :=
  match findPhase g.copy (2 * g.copy.length + 1) i on with
  | none => { g with divider := none, left := 0 }
  | some (j, p, n) => { g with step := j, onPhase := p, left := n, divider := dividerIn g.copy j p n }

/-- A generator's phase has run out (R95). -/
def Generator.phaseOver (g : Generator) : Bool := g.playing && g.begun && g.left == 0 && !g.copy.isEmpty

/-- The phase after the present one (R95). -/
def Generator.nextPhase (g : Generator) : Generator :=
  if g.onPhase then g.enter g.step false else g.enter ((g.step + 1) % g.copy.length) true

/-- Generator g goes on to its next phase (R95). -/
def State.phaseEnd (g : GenId) (s : State) : State :=
  if s.up && (s.gen g).phaseOver then s.onGen g Generator.nextPhase else s

/-- One eighth of a PLAYING generator: it begins at the boundary after its grant; otherwise the eighth is
counted off its phase (R95). -/
def Generator.tick (g : Generator) : Generator :=
  if !g.playing then g
  else if !g.begun then { g with begun := true }.enter 0 true
  else if g.left ≤ 1 then { g with left := 0 }
  else { g with left := g.left - 1, divider := dividerIn g.copy g.step g.onPhase (g.left - 1) }

/-- An eighth boundary at the Tone Bank (R95). -/
def State.toneTick (s : State) : State := s.each (allOf 4) fun g => State.onGen g Generator.tick

/-! ### The crosspoint frame (R79) -/

/-- The frame that starts at this eighth boundary, if there is one, is sent and latched (R79). -/
def State.crosspoint (s : State) : State :=
  match s.router.frame with
  | some f => if s.up then s.onRouter fun r => { r with latched := f, frame := none } else s
  | none => s

/-! ### Power (R92) -/

/-- NORMAL to RESERVE: every BELL and MESSAGE session ends POWER (R92). -/
def State.sessionsReserve (s : State) : State := s.endSessions (s.sessionsWith fun x => x.cls.yields) .power

/-- RESERVE to RETAINED: every session ends POWER, the crosspoint selects none and PAUSE is off (R92). The cue bus keeps
its last number, as R81 has it for a player without a session: R92 does not name it and R162 says that the outputs go off,
and the choice is the model's (log entry 55). -/
def State.sessionsRetained (s : State) : State :=
  (s.endSessions (s.sessionsWith fun _ => true) .power).onRouter fun r =>
    { r with latched := Tab.all 64 none, frame := none, seen := Tab.all 64 none, changed := false
             players := r.players.map fun p => { p with pause := false } }

end Sys2Proof.Machine
end

