-- ==== Sys2Proof/Machine/TimeBase.lean ====
section
/-! DEFINITION. The Time Base (chapter 1): standard time, slew, steps and time moves, quality, the telegram receiver, TIME_SET and DST. -/

namespace Sys2Proof.Machine

/-! ### Handing boundaries and moves (R3, R7) -/

/-- Boundaries and time moves are handed on (R3, R7, R19). -/
def State.hands (s : State) : Bool := s.up && s.timeSet

/-- The signed difference of a time move in eighths, 0 for FIRST_SET (R7). -/
def TimeMove.difference (m : TimeMove) : Int :=
  match m.old with
  | some o => m.new.eighths - o.eighths
  | none => 0

/-- A time move is handed to the Calendar Unit, the Bell Scheduler and the Clock Line Driver, and reported
(R7). That its own MOVE record comes after the records those blocks make of it is the model's choice (R46, log entry 17). -/
def State.handMove (m : TimeMove) (s : State) : State :=
  if s.hands then
    (((s.calMove m).bellMove m).lineMove).report (.timeMoved m.cause m.dst m.difference)
  else s

/-- A civil second boundary is handed, to the Calendar Unit too when it is a date change (R3). The rules leave the order
open (R23, R36); that it is the Calendar Unit, the Bell Scheduler and the Clock Line Driver, so that an entry at 00:00:00
meets the day-quiet marks of the new date, is the model's choice (log entry 52). -/
def State.handBoundary (c : CivilTime) (dateChange : Bool) (s : State) : State :=
  if s.hands then
    let s1 := if dateChange then s.calDateChange c.day else s
    (s1.bellBoundary c dateChange).lineBoundary c
  else s

/-- The DST change from one flag to another (R7). -/
def dstChangeOf (before after : Bool) : DstChange :=
  if before = after then .unchanged else if after then .nowInForce else .noLonger

/-- The cause of a transition to a flag (R17). -/
def transitionCause (after : Bool) : MoveCause := if after then .dstStart else .dstEnd

/-! ### Quality (R4) -/

/-- Quality becomes q, its timer is set, and a change is reported (R4). -/
def State.setQuality (q : Quality) (timer : Option Nat) (s : State) : State :=
  let old := s.time.quality
  let t := s.onTime fun r => { r with quality := q, qualityTimer := timer }
  if old = q || !s.up then t else t.report (.qualityChange old q)

/-- A quality period that began at the timer has ended. -/
def periodOver (timer : Option Nat) (period now : Nat) : Bool :=
  match timer with
  | some t => decide (t + period ≤ now)
  | none => false

/-- The LOCKED period ends (R4). -/
def State.lockedEnd (s : State) : State :=
  if s.power.supplied && s.time.quality == .locked && periodOver s.time.qualityTimer Config.lockedPeriod s.now then
    s.setQuality .holdover (some s.now)
  else s

/-- The HOLDOVER period ends (R4). -/
def State.holdoverEnd (s : State) : State :=
  if s.power.supplied && s.time.quality == .holdover &&
      periodOver s.time.qualityTimer Config.holdoverPeriod s.now then
    s.setQuality .free none
  else s

/-! ### Slew (R5) -/

/-- A slew of d eighths begins (R5). -/
def TimeBase.startSlew (d : Int) (r : TimeBase) : TimeBase :=
  { r with slewRem := d, slewCount := 0, adjusted := false, again := false }

/-- Any slew is cancelled (R5). -/
def TimeBase.cancelSlew (r : TimeBase) : TimeBase := r.startSlew 0

/-- One eighth toward 0. -/
def towardZero (d : Int) : Int := if 0 < d then d - 1 else if d < 0 then d + 1 else 0

/-- A standard second boundary at the slew: the second that ended moves the remainder if it was adjusted, and
the one that begins may be adjusted (R5). -/
def TimeBase.slewBoundary (r : TimeBase) : TimeBase :=
  let rem := if r.adjusted then towardZero r.slewRem else r.slewRem
  if rem = 0 then { r with slewRem := 0, slewCount := 0, adjusted := false }
  else if r.slewCount = 7 then { r with slewRem := rem, slewCount := 0, adjusted := true }
  else { r with slewRem := rem, slewCount := r.slewCount + 1, adjusted := false }

/-! ### The eighth and the second (R1, R2) -/

/-- The running eighth is the last of its second (R2). -/
def TimeBase.lastEighth (r : TimeBase) : Bool :=
  if r.adjusted && decide (0 < r.slewRem) then decide (6 ≤ r.eighth)
  else if r.adjusted && decide (r.slewRem < 0) then decide (7 ≤ r.eighth) && r.again
  else decide (7 ≤ r.eighth)

/-- An eighth that is not the last of its second ends (R2). -/
def TimeBase.nextEighth (r : TimeBase) : TimeBase :=
  if 7 ≤ r.eighth then { r with again := true } else { r with eighth := r.eighth + 1 }

/-- An eighth ends: the elapsed count increases, and standard time advances, up to the boundary that
STANDARD_SECOND_BOUNDARY takes (R1, R2). At the end of the supported range it stays, and quality becomes
UNSET; where the last second is an adjusted one, at the eighth that ends it, eighth 6 or the second eighth 7, which is
the model's choice (log entry 40). -/
def State.advanceTime (s : State) : State :=
  let s1 := s.onTime fun r => { r with elapsed := r.elapsed + 1 }
  if s1.time.lastEighth then
    if Config.lastSecond ≤ s1.time.stdSec then s1.setQuality .unset none
    else s1.onTime fun r => { r with boundaryDue := true }
  else s1.onTime TimeBase.nextEighth

/-- Standard seconds increase by one and the eighth becomes 0 (R2, R5). -/
def TimeBase.nextSecond (r : TimeBase) : TimeBase :=
  { r.slewBoundary with stdSec := r.stdSec + 1, eighth := 0, again := false, boundaryDue := false }

/-- DST is judged at a boundary: at a transition instant, and at a date change handed on; a change is handed
as a move from the boundary's reading (R16, R17). -/
def State.judgeDst (c : CivilTime) (dateChange : Bool) (s : State) : State :=
  let flag := s.time.dst.inForceAt s.time.stdSec
  if (s.time.dst.isInstant s.time.stdSec || (dateChange && s.hands)) && flag != s.time.dstInForce then
    let t := s.onTime fun r => { r with dstInForce := flag }
    t.handMove ⟨some c, t.civil, transitionCause flag, dstChangeOf (!flag) flag⟩
  else s

/-- The mirror and the header are rewritten at a standard second boundary (R182, R183). -/
def State.publish (s : State) : State := if s.up then s.writeMirror.writeHeader else s

/-- A standard second boundary (R2, R3, R17, R182). That the mirror and the header are rewritten last, after the bells,
the lines and the DST move of the boundary, is the model's choice (log entry 53). -/
def State.secondBoundary (s : State) : State :=
  if s.power.supplied && s.time.boundaryDue then
    let before := s.civil
    let s1 := s.onTime TimeBase.nextSecond
    let c := s1.civil
    let dateChange := c.day != before.day
    (((s1.handBoundary c dateChange).judgeDst c dateChange).whole).publish
  else s

/-! ### Steps (R6) -/

/-- Standard time takes a new value and DST is judged there (R6 steps 1 to 4). -/
def TimeBase.stepTo (sec : Nat) (r : TimeBase) : TimeBase :=
  { r.cancelSlew with stdSec := sec, eighth := 0, boundaryDue := false, dstInForce := r.dst.inForceAt sec }

/-- The time move of a step, if it makes one (R6). -/
def stepMove (wasUnset : Bool) (cause : MoveCause) (before after : State) : Option TimeMove :=
  let dst := dstChangeOf before.time.dstInForce after.time.dstInForce
  if wasUnset then some ⟨none, after.civil, .firstSet, dst⟩
  else if before.civil = after.civil then none
  else some ⟨some before.civil, after.civil, cause, dst⟩

/-- Standard time steps to a second (R6 steps 1 to 4). -/
def State.stepSec (sec : Nat) : State → State := State.onTime (TimeBase.stepTo sec)

/-- The time move of a step that began at `before`, if it makes one, is handed (R6 step 5, R7). Quality is set by then, as
the records of the move carry the new quality (R46). -/
def State.handStep (cause : MoveCause) (s before : State) : State :=
  match stepMove (!before.timeSet) cause before s with
  | some m => s.handMove m
  | none => s

/-! ### TIME_SET (R14) -/

/-- TIME_SET's parameters (12.3). -/
structure TimeParams where
  year   : Nat
  month  : Nat
  day    : Nat
  hour   : Nat
  minute : Nat
  second : Nat
  force  : Nat
  deriving DecidableEq, Repr

/-- The date of a TIME_SET. -/
def TimeParams.date (p : TimeParams) : Date := ⟨p.year, p.month, p.day⟩

/-- The quality an accepted TIME_SET leaves, with its timer (R4, R14). -/
def qualityAfterSet (q : Quality) (now : Nat) : Quality × Option Nat :=
  match q with
  | .locked => (.holdover, some now)
  | _ => (.free, none)

/-- TIME_SET judged and carried out (R14): time steps, then quality is set, and then the move is handed (log entry 17). -/
def State.takeTimeSet (p : TimeParams) (s : State) : State × Answer :=
  if p.year < 2000 || 2099 < p.year then (s, .plain .range)
  else if !(p.date.valid && timeOfDayValid p.hour p.minute p.second) || 1 < p.force then (s, .plain .badParam)
  else if s.time.quality = .locked && p.force = 0 then (s, .plain .referenceLocked)
  else
    let q := qualityAfterSet s.time.quality s.now
    let t := ((s.stepSec (secondsOf p.date p.hour p.minute p.second)).setQuality q.1 q.2).handStep .hostStep s
    let old : Nat × Nat := if s.timeSet then (s.time.stdSec, s.time.eighth) else (0, 0)
    (t, ⟨.ok, 0, leBytes 4 old.1 ++ u8 old.2 ++ u8 s.time.quality.num ++ u8 (bitNum t.time.dstInForce)⟩)

/-! ### The telegram receiver (R8 to R13) -/

/-- A counter increased; at 65535 it stays (1.6). -/
def bump (n : Nat) : Nat := if n < 65535 then n + 1 else 65535

/-- The receiver counters updated. -/
def State.onCounters (f : RxCounters → RxCounters) : State → State :=
  State.onTime fun r => { r with counters := f r.counters }

/-- The telegram being assembled is discarded (R8). -/
def State.dropAssembly : State → State := State.onTime fun r => { r with assembly := none }

/-- A telegram is discarded and counted under format (R9). -/
def State.formatError (s : State) : State :=
  s.dropAssembly.onCounters fun c => { c with format := bump c.format }

/-- The value of a decimal digit character. -/
def digitOf (b : Byte) : Option Nat :=
  if 0x30 ≤ b.toNat && b.toNat ≤ 0x39 then some (b.toNat - 0x30) else none

/-- The value of a check character, '0' to '9' or 'A' to 'F'. -/
def hexOf (b : Byte) : Option Nat :=
  match digitOf b with
  | some d => some d
  | none => if 0x41 ≤ b.toNat && b.toNat ≤ 0x46 then some (b.toNat - 0x41 + 10) else none

/-- The character 'T'. -/
def charT : Byte := 0x54#8

/-- A character is of the class its position, 1..19 after the 'T' at 0, calls for (R9, 1.6). -/
def classAt (k : Nat) (b : Byte) : Bool :=
  if k = 7 then b == 0x57#8
  else if k = 15 then b == 0x53#8 || b == 0x44#8
  else if k = 16 then b == 0x2A#8
  else if k = 17 || k = 18 then (hexOf b).isSome
  else if k = 19 then b == 0x0D#8
  else (digitOf b).isSome

/-- The digit at a position of a telegram. -/
def digitAt (cs : List Byte) (k : Nat) : Nat := (digitOf (cs.getD k 0)).getD 0

/-- The two-digit number at a position of a telegram. -/
def twoAt (cs : List Byte) (k : Nat) : Nat := 10 * digitAt cs k + digitAt cs (k + 1)

/-- A telegram's fields (1.6). -/
structure Telegram where
  date    : Date
  weekday : Nat
  hour    : Nat
  minute  : Nat
  second  : Nat
  summer  : Bool
  deriving DecidableEq, Repr

/-- The fields of 20 characters of the right classes. -/
def telegramOf (cs : List Byte) : Telegram :=
  { date := ⟨2000 + twoAt cs 1, twoAt cs 3, twoAt cs 5⟩, weekday := digitAt cs 8, hour := twoAt cs 9
    minute := twoAt cs 11, second := twoAt cs 13, summer := cs.getD 15 0 == 0x44#8 }

/-- The check of a telegram agrees (R10 step 1). -/
def checkAgrees (cs : List Byte) : Bool :=
  (xorBytes (cs.take 17)).toNat ==
    16 * (hexOf (cs.getD 17 0)).getD 0 + (hexOf (cs.getD 18 0)).getD 0

/-- The fields of a telegram are in range (R10 step 2). -/
def Telegram.inRange (t : Telegram) : Bool :=
  t.date.valid && timeOfDayValid t.hour t.minute t.second && decide (t.weekday ≤ 6)

/-- A reading of a stated civil time is consistent with what it assumed of DST (R11). -/
def DstRule.consistent (r : DstRule) (reading : Int) (assumed : Bool) : Bool :=
  decide (0 ≤ reading) && r.inForceAt reading.toNat == assumed

/-- The reading of a civil time that assumes DST in force, or not (R11). -/
def DstRule.reading (r : DstRule) (c : Nat) (assumed : Bool) : Int := (c : Int) - r.seconds assumed

/-- The conversion of R11: the standard time and whether the telegram agrees with the rule. -/
def DstRule.convert (r : DstRule) (c : Nat) (summer : Bool) : Option (Nat × Bool) :=
  if r.consistent (r.reading c summer) summer then some ((r.reading c summer).toNat, true)
  else if r.consistent (r.reading c !summer) !summer then some ((r.reading c !summer).toNat, false)
  else Option.none

/-- A valid telegram that agrees or disagrees with the rule (R11, R19). -/
def State.noteAgreement (agrees : Bool) (s : State) : State :=
  if agrees then s.onTime fun r => { r with disagree := false }
  else
    let t := s.onCounters fun c => { c with disagreement := bump c.disagreement }
    if s.power.part == .running && !s.time.disagree then (t.onTime fun r => { r with disagree := true }).report .dstDisagreement else t

/-- The offset of a telegram against own time (R13). -/
def TimeBase.offset (r : TimeBase) (sec : Nat) : Int := 8 * (sec : Int) - (8 * (r.stdSec : Int) + r.eighth)

/-- A telegram is acted on (R13): quality becomes LOCKED, so that the record of it holds the time before any step, and then
time is dealt with. -/
def State.actOn (sec : Nat) (s : State) : State :=
  let s1 := s.onCounters fun c => { c with acted := bump c.acted }
  let d := s1.time.offset sec
  let s2 := s1.setQuality .locked (some s1.now)
  if !s1.timeSet || 16 < d.natAbs then ((s2.stepSec sec).handStep .telegramStep s1).whole
  else if d.natAbs ≤ 1 then s2.onTime TimeBase.cancelSlew
  else s2.onTime (TimeBase.startSlew d)

/-- A telegram whose CR was taken at the elapsed count `cr` is accepted against the candidate (R12). -/
def TimeBase.accepts (r : TimeBase) (sec cr : Nat) : Bool :=
  match r.candidate with
  | some c => sec == c.stdSec + 60 && decide (c.at_ + 472 ≤ cr ∧ cr ≤ c.at_ + 488)
  | none => false

/-- A converted telegram whose CR was taken at the elapsed count `cr` is judged against the candidate and becomes
it (R12); in STARTING it is not acted on (R19). -/
def State.acceptTelegram (sec cr : Nat) (s : State) : State :=
  let s1 := s.onTime fun r => { r with candidate := some ⟨sec, cr⟩ }
  if s.time.accepts sec cr && s.power.part == .running then s1.actOn sec else s1

/-- A complete telegram goes through validation, conversion and acceptance (R10 to R12). -/
def State.takeTelegram (cs : List Byte) (cr : Nat) (s : State) : State :=
  let t := telegramOf cs
  if !checkAgrees cs then s.onCounters fun c => { c with checksum := bump c.checksum }
  else if !t.inRange then s.onCounters fun c => { c with range := bump c.range }
  else if weekdayOf (dayNumber t.date) != t.weekday then s.onCounters fun c => { c with weekday := bump c.weekday }
  else match s.time.dst.convert (secondsOf t.date t.hour t.minute t.second) t.summer with
    | none => s.onCounters fun c => { c with gap := bump c.gap }
    | some (sec, agrees) =>
      ((s.onCounters fun c => { c with valid := bump c.valid }).noteAgreement agrees).acceptTelegram sec cr

/-- A character taken at the elapsed count `taken` goes to assembly (R9). -/
def State.assemble (b : Byte) (taken : Nat) (s : State) : State :=
  match s.time.assembly with
  | none => if b = charT then s.onTime fun r => { r with assembly := some ⟨[b], taken⟩ } else s
  | some a =>
    if b = charT then s.formatError.onTime fun r => { r with assembly := some ⟨[b], taken⟩ }
    else if !classAt a.chars.length b then s.formatError
    else if a.chars.length = 19 then (s.dropAssembly).takeTelegram (a.chars ++ [b]) taken
    else s.onTime fun r => { r with assembly := some { a with chars := a.chars ++ [b] } }

/-- A character's parity is even over its data and parity bits (1.6). -/
def parityOk (ch : RxChar) : Bool :=
  ((allOf 8).filter fun i => ch.data.getLsbD i.val).length % 2 == bitNum ch.parity

/-- A character taken at the elapsed count `taken` is examined (R8). -/
def State.examine (ch : RxChar) (taken : Nat) (s : State) : State :=
  if !parityOk ch then s.dropAssembly.onCounters fun c => { c with parity := bump c.parity }
  else if !ch.stop then s.dropAssembly.onCounters fun c => { c with framing := bump c.framing }
  else s.assemble ch.data taken

/-- The character held, if any, is examined (R8). -/
def State.examineHeld (s : State) : State :=
  match s.time.held with
  | some h => (s.onTime fun r => { r with held := none }).examine h.ch h.at_
  | none => s

/-- The receiver runs: in NORMAL and RESERVE, in both part states, and while the reset input is asserted, when
the Time Base runs (R8, R19, R164). -/
def State.receives (s : State) : Bool := s.power.supplied && s.power.power != .retained

/-- A character is taken while the part cannot examine it: it is held, or lost to overrun (R8). -/
def State.holdChar (ch : RxChar) (s : State) : State :=
  match s.time.held with
  | none => s.onTime fun r => { r with held := some ⟨ch, r.elapsed⟩ }
  | some _ => s.dropAssembly.onCounters fun c => { c with overrun := bump c.overrun }

/-- A telegram character is received (R8). -/
def State.receive (ch : RxChar) (waits : Bool) (s : State) : State :=
  if s.receives then
    if waits && s.starting then s.holdChar ch else s.examineHeld.examine ch s.now
  else s

/-- The telegram being assembled has run out of time (R9). -/
def State.telegramTimeout (s : State) : State :=
  match s.time.assembly with
  | some a => if s.receives && decide (a.since + Config.telegramTimeout ≤ s.now) then s.formatError else s
  | none => s

/-- The receiver at the entry to RETAINED (R19). -/
def TimeBase.retain (r : TimeBase) : TimeBase := { r with assembly := none, candidate := none, held := none }

/-! ### A DST rule installed while RUNNING (R16, R17) -/

/-- A CALENDAR install's DST rule is taken; a changed flag, or an offset that changes civil time, is handed as a
move (R16, R17). An offset changed while DST is not in force changes no reading, and that no move is handed then is
the model's choice (log entry 63). -/
def State.installDst (rule : DstRule) (s : State) : State :=
  let flag := rule.inForceAt s.time.stdSec
  let t := s.onTime fun r => { r with dst := rule, dstInForce := flag }
  if s.civil = t.civil && s.time.dstInForce = flag then t
  else
    t.handMove ⟨some s.civil, t.civil, if s.time.dstInForce = flag then .dstRule else transitionCause flag,
      dstChangeOf s.time.dstInForce flag⟩

end Sys2Proof.Machine
end

