-- ==== Sys2Proof/Machine/Images.lean ====
section
/-! DEFINITION. The seven sections of the standing image: their checks, their contents, and what installing them does, at a start and while RUNNING (R35, R53, R55, R98, R115, R127, R153, 2.5, R166, R168, 12.6). -/

namespace Sys2Proof.Machine

/-! ### Checks -/

/-- One check of a section's field: it passes, clamps, or refuses with a code; with the position it names. -/
inductive Check where
  | pass
  | clamp (position : Word)
  | fail (code : Code) (position : Word)
  deriving DecidableEq, Repr

/-- What the checks of a section come to: a refusal, or the first clamp if any. -/
inductive Judged where
  | refused (code : Code) (position : Word)
  | passed (clamped : Option Word)
  deriving DecidableEq, Repr

/-- The first failure refuses; otherwise the first clamp is kept. -/
def judgeChecks : Option Word → List Check → Judged
  | seen, [] => .passed seen
  | _, .fail c p :: _ => .refused c p
  | seen, .clamp p :: cs => judgeChecks (some (seen.getD p)) cs
  | seen, .pass :: cs => judgeChecks seen cs

/-- A condition, or BAD_PARAM at a position. -/
def must (ok : Bool) (position : Word) : Check := if ok then .pass else .fail .badParam position

/-- A value in a range, or a clamp at a position. -/
def inside (lo hi v : Nat) (position : Word) : Check := if (clampTo lo hi v).2 then .clamp position else .pass

/-- A position as a word. -/
def pos (n : Nat) : Word := BitVec.ofNat 16 n

/-- The position of a field for which the spec names none (log entry 6). -/
def nowhere (k : SectKind) (offset : Nat) : Word := Config.unstatedPosition k.num offset

/-- The count checks, then the length, then the fields (12.6). -/
def inOrder (counts : List Check) (lengthOk : Bool) (fields : List Check) : List Check :=
  match judgeChecks none counts with
  | .refused _ _ => counts
  | .passed _ => if lengthOk then counts ++ fields else counts ++ [.fail .badParam 0]

/-- The numbers 0..n−1 with something made of each. -/
def forEach {α : Type} (n : Nat) (f : Nat → List α) : List α := (List.range n).flatMap f

/-- Record k's number is not one of the records before it. -/
def fresh (k : Nat) (number : Nat → Nat) : Bool := (List.range k).all fun j => number j != number k

/-! ### SITE (R53, R153) -/

/-- A threshold pair at an offset (R153). -/
def thresholdAt (body : List Byte) (o : Nat) : Nat × Nat := (wordAt body o, wordAt body (o + 2))

/-- The checks of a threshold pair, naming a line or amplifier (R153). -/
def thresholdChecks (t : Nat × Nat) (position : Word) : List Check :=
  [must (t.1 ≤ 1023) position, must (t.2 ≤ 1023) position, must (t.1 ≤ t.2) position]

/-- SITE's checks. -/
def siteChecks (body : List Byte) : List Check :=
  inOrder [] (body.length == 204)
    (forEach 64 (fun z => [must (byteAt body (2 * z) ≤ 5) (pos z), must (byteAt body (2 * z + 1) ≤ 3) (pos z)]) ++
     forEach 6 (fun b =>
      [must (byteAt body (128 + 2 * b) ≤ 63 || byteAt body (128 + 2 * b) == 255) (pos b),
       must (byteAt body (129 + 2 * b) < 64) (pos b)]) ++
     forEach 16 fun a => thresholdChecks (thresholdAt body (140 + 4 * a)) (pos a))

/-- What a SITE section gives. -/
structure SiteData where
  zones      : Tab (BuildingId × Mode) 64
  monitor    : Tab (Option ZoneId) 6
  spread     : Tab BuildingSet 6
  thresholds : List (Nat × Nat)
  deriving DecidableEq, Repr

/-- SITE's contents. -/
def siteData (body : List Byte) : SiteData :=
  { zones := Tab.tabulate 64 fun z =>
      (Fin.ofNat 6 (byteAt body (2 * z.val)), (modeOf (byteAt body (2 * z.val + 1))).getD .off)
    monitor := Tab.tabulate 6 fun b => asFin 64 (byteAt body (128 + 2 * b.val))
    spread := Tab.tabulate 6 fun b => BitVec.ofNat 6 (byteAt body (129 + 2 * b.val))
    thresholds := (List.range 16).map fun a => thresholdAt body (140 + 4 * a) }

/-! ### GROUPS (R55) -/

/-- GROUPS' checks (R55). That the position of a record counts from 0 is the model's choice (log entry 48). -/
def groupsChecks (body : List Byte) : List Check :=
  let n := wordAt body 0
  let number (k : Nat) : Nat := byteAt body (2 + 10 * k)
  inOrder [must (n ≤ 127) (nowhere .groups 0)] (body.length == 2 + 10 * n)
    (forEach n fun k =>
      [must (1 ≤ number k && number k ≤ 127) (pos k), must (fresh k number) (pos k)])

/-- GROUPS' contents: groups the section does not name are empty; group 0 is every zone (R55). -/
def groupsData (body : List Byte) : Tab ZoneSet 128 :=
  (List.range (wordAt body 0)).foldl (fun t k =>
    match asFin 128 (byteAt body (2 + 10 * k)) with
    | some g => Tab.put t g (maskAt body (4 + 10 * k))
    | none => t) groupsDefault

/-! ### PATTERNS (R97, R98) -/

/-- The divider of a frequency, clamped and rounded half up (R97). -/
def dividerOf (f : Nat) : Nat :=
  let g := (clampTo 200 4000 f).1
  (2 * 524288 + g) / (2 * g)

/-- The offsets of the pattern records, from an offset on. -/
def patternOffsets (body : List Byte) : Nat → Nat → List Nat
  | 0, _ => []
  | n + 1, o => o :: patternOffsets body n (o + 2 + 8 * byteAt body (o + 1))

/-- The byte after the last pattern record. -/
def patternsEnd (body : List Byte) : Nat → Nat → Nat
  | 0, o => o
  | n + 1, o => patternsEnd body n (o + 2 + 8 * byteAt body (o + 1))

/-- The checks of step i of record k (R98): a refusal or clamp names the record and the step, as 256·k + i
(log entry 48). -/
def stepChecks (body : List Byte) (o k i : Nat) : List Check :=
  let here := pos (256 * k + i)
  [inside 200 4000 (wordAt body o) here,
   if wordAt body (o + 2) = 0 then .pass else inside 200 4000 (wordAt body (o + 2)) here,
   must (wordAt body (o + 4) ≤ 255) here, must (wordAt body (o + 6) ≤ 255) here]

/-- Step i of a pattern record. -/
def stepAt (body : List Byte) (o : Nat) : ToneStep :=
  { toneA := dividerOf (wordAt body o)
    toneB := if wordAt body (o + 2) = 0 then none else some (dividerOf (wordAt body (o + 2)))
    on := wordAt body (o + 4), off := wordAt body (o + 6) }

/-- The steps of the pattern record at an offset. -/
def stepsAt (body : List Byte) (o : Nat) : List ToneStep :=
  (List.range (byteAt body (o + 1))).map fun i => stepAt body (o + 2 + 8 * i)

/-- A pattern sounds, or pauses, for some time, or has no steps (R98). -/
def notAllZero (xs : List ToneStep) : Bool := xs.isEmpty || xs.any fun x => x.on != 0 || x.off != 0

/-- PATTERNS' checks (R98). That the positions of records and steps count from 0 is the model's choice (log entry 48). -/
def patternsChecks (body : List Byte) : List Check :=
  let n := wordAt body 0
  let offs := patternOffsets body (min n 4) 2
  let number (k : Nat) : Nat := byteAt body (offs.getD k 0)
  let stepCounts := (numbered 0 offs).map fun ko => must (byteAt body (ko.2 + 1) ≤ 8) (pos ko.1)
  inOrder (must (n ≤ 4) (nowhere .patterns 0) :: (if n ≤ 4 then stepCounts else []))
    (body.length == patternsEnd body n 2)
    ((numbered 0 offs).flatMap fun ko =>
      [must (4 ≤ number ko.1 && number ko.1 ≤ 7) (pos ko.1), must (fresh ko.1 number) (pos ko.1)] ++
      forEach (byteAt body (ko.2 + 1)) (fun i => stepChecks body (ko.2 + 2 + 8 * i) ko.1 i) ++
      [must (notAllZero (stepsAt body ko.2)) (pos ko.1)])

/-- PATTERNS' contents: loadable patterns it does not name are empty (R98). -/
def patternsData (body : List Byte) : Tab (List ToneStep) 8 :=
  (patternOffsets body (wordAt body 0) 2).foldl (fun t o =>
    match asFin 8 (byteAt body o) with
    | some p => Tab.put t p (stepsAt body o)
    | none => t) patternsDefault

/-! ### PROGRAMS (R34, R35) -/

/-- The offsets of the programs, from an offset on. -/
def programOffsets (body : List Byte) : Nat → Nat → List Nat
  | 0, _ => []
  | n + 1, o => o :: programOffsets body n (o + 2 + 7 * wordAt body o + wordAt body o % 2)

/-- The byte after the last program. -/
def programsEnd (body : List Byte) : Nat → Nat → Nat
  | 0, o => o
  | n + 1, o => programsEnd body n (o + 2 + 7 * wordAt body o + wordAt body o % 2)

/-- The packed first field of an entry (12.6). -/
def entryWord (body : List Byte) (o : Nat) : Nat := wordAt body o + 65536 * byteAt body (o + 2)

/-- The time of an entry. -/
def entryTime (body : List Byte) (o : Nat) : Nat := entryWord body o % 131072

/-- The action of an entry. -/
def entryAction (body : List Byte) (o : Nat) : Action :=
  match entryWord body o / 131072 % 4 with
  | 0 => .ring
  | 1 => .cue
  | 2 => .quietOn
  | _ => .quietOff

/-- RING and CUE ask for sessions. -/
def Action.sounds : Action → Bool
  | .ring | .cue => true
  | .quietOn | .quietOff => false

/-- The checks of entry i of program p (R35); the order check names the later entry. -/
def entryChecks (body : List Byte) (p o i : Nat) : List Check :=
  let e := o + 2 + 7 * i
  let here := pos (256 * p + i)
  let a := entryAction body e
  [must (entryTime body e ≤ 86399) here,
   if a = .cue then must (byteAt body (e + 6) ≤ 1) here else .pass,
   if a = .ring then inside 1 2400 (wordAt body (e + 5)) here else .pass,
   must (byteAt body (e + 3) ≤ 127) here,
   if a.sounds then inside 0 240 (byteAt body (e + 4)) here else .pass,
   if i = 0 || entryTime body (e - 7) ≤ entryTime body e then .pass else .fail .order here]

/-- The entry at an offset (12.6, R35). A field its action does not use is stored as it comes, and one that its action
does not carry is stored as 0. -/
def entryAt (body : List Byte) (e : Nat) : Entry :=
  let a := entryAction body e
  { time := entryTime body e, action := a
    pattern := Fin.ofNat 8 (entryWord body e / 1048576)
    message := if a = .cue then BitVec.ofNat 8 (byteAt body (e + 5)) else 0
    player := if a = .cue then Fin.ofNat 2 (byteAt body (e + 6)) else 0
    duration := if a = .ring then (clampTo 1 2400 (wordAt body (e + 5))).1 else 0
    target := Fin.ofNat 128 (byteAt body (e + 3))
    deferLimit := if a.sounds then (clampTo 0 240 (byteAt body (e + 4))).1 else byteAt body (e + 4)
    resumable := entryWord body e / 524288 % 2 == 1 }

/-- The position of program p's entry count: the program number, with no entry to name beside it (R35, log
entry 6). -/
def countPosition (p : Nat) : Word := pos (256 * p + (nowhere .programs (p + 2)).toNat % 256)

/-- PROGRAMS' checks. -/
def programsChecks (body : List Byte) : List Check :=
  let n := wordAt body 0
  let offs := programOffsets body (min n 48) 2
  let counts := (numbered 0 offs).map fun ko => must (wordAt body ko.2 ≤ 96) (countPosition ko.1)
  let total := (offs.map fun o => wordAt body o).sum
  inOrder (must (1 ≤ n && n ≤ 48) (nowhere .programs 0) ::
      (if n ≤ 48 then counts ++ [must (total ≤ 1024) (nowhere .programs 1)] else []))
    (body.length == programsEnd body n 2)
    ((numbered 0 offs).flatMap fun ko => forEach (wordAt body ko.2) fun i => entryChecks body ko.1 ko.2 i)

/-- PROGRAMS' contents: programs it does not fill are empty (R34). -/
def programsData (body : List Byte) : Tab (List Entry) 48 :=
  let offs := programOffsets body (wordAt body 0) 2
  Tab.tabulate 48 fun p =>
    match offs[p.val]? with
    | some o => (List.range (wordAt body o)).map fun i => entryAt body (o + 2 + 7 * i)
    | none => []

/-! ### CALENDAR (2.5, 1.8) -/

/-- The checks of a transition rule (2.5). -/
def ruleChecks (body : List Byte) (o : Nat) : List Check :=
  let here := nowhere .calendar o
  [must (1 ≤ byteAt body o && byteAt body o ≤ 12) here,
   must (1 ≤ byteAt body (o + 1) && byteAt body (o + 1) ≤ 5) here,
   must (byteAt body (o + 2) ≤ 6) here, must (byteAt body (o + 3) ≤ 23) here]

/-- The checks of schedule group g's record (2.5). -/
def schedChecks (body : List Byte) (g : Nat) : List Check :=
  let o := 418 + 20 * g
  [must (byteAt body o < 64) (nowhere .calendar o)] ++
  forEach 16 (fun t => [must (byteAt body (o + 4 + t) ≤ 47 || byteAt body (o + 4 + t) == 255)
    (nowhere .calendar (o + 4 + t))]) ++
  [inside 0 300 (wordAt body (o + 2)) (nowhere .calendar (o + 2)),
   must (byteAt body (o + 1) ≤ 1) (nowhere .calendar (o + 1))]

/-- CALENDAR's checks. -/
def calendarChecks (body : List Byte) : List Check :=
  inOrder [] (body.length == 588)
    ([must (wordAt body 0 ≤ 36524) (nowhere .calendar 0)] ++
     forEach 400 (fun d => [must (byteAt body (2 + d) ≤ 15) (nowhere .calendar (2 + d))]) ++
     forEach 16 (fun t =>
      let v := byteAt body (402 + t)
      [must ((1 ≤ v && v ≤ 127) || v == 255) (nowhere .calendar (402 + t))]) ++
     forEach 8 (schedChecks body) ++
     [must (byteAt body 578 == 0 || byteAt body 578 == 30 || byteAt body 578 == 60) (nowhere .calendar 578)] ++
     ruleChecks body 580 ++ ruleChecks body 584)

/-- What a CALENDAR section gives. -/
structure CalData where
  base   : Nat
  dayMap : Tab (Fin 16) 400
  quiet  : Tab (Option ZoneGroupId) 16
  groups : Tab SchedGroup 8
  dst    : DstRule
  deriving DecidableEq, Repr

/-- A transition rule at an offset. -/
def ruleAt (body : List Byte) (o : Nat) : TransRule :=
  ⟨byteAt body o, byteAt body (o + 1), byteAt body (o + 2), byteAt body (o + 3)⟩

/-- Schedule group g's record. -/
def schedAt (body : List Byte) (g : Nat) : SchedGroup :=
  let o := 418 + 20 * g
  { scope := BitVec.ofNat 6 (byteAt body o)
    progMap := Tab.tabulate 16 fun t => asFin 48 (byteAt body (o + 4 + t.val))
    grace := (clampTo 0 300 (wordAt body (o + 2))).1, resume := byteAt body (o + 1) == 1 }

/-- CALENDAR's contents. -/
def calendarData (body : List Byte) : CalData :=
  { base := wordAt body 0
    dayMap := Tab.tabulate 400 fun d => Fin.ofNat 16 (byteAt body (2 + d.val))
    quiet := Tab.tabulate 16 fun t => asFin 128 (byteAt body (402 + t.val))
    groups := Tab.tabulate 8 fun g => schedAt body g.val
    dst := ⟨byteAt body 578, ruleAt body 580, ruleAt body 584⟩ }

/-! ### LINES (R127, R153) -/

/-- q as a line record gives it, clamped for an impulse line (R127). -/
def qAt (body : List Byte) (o : Nat) : Nat × Bool :=
  match lineKindOf (byteAt body o) with
  | some k => if k.impulses then clampTo 4 120 (byteAt body (o + 1)) else (byteAt body (o + 1), false)
  | none => (byteAt body (o + 1), false)

/-- w as a line record gives it, clamped for an impulse line with q as clamped (R127). -/
def wAt (body : List Byte) (o : Nat) : Nat × Bool :=
  match lineKindOf (byteAt body o) with
  | some k =>
    if k.impulses then clampTo 1 ((qAt body o).1 - 1) (byteAt body (o + 2)) else (byteAt body (o + 2), false)
  | none => (byteAt body (o + 2), false)

/-- A clamp, where there was one. -/
def clampIf (b : Bool) (position : Word) : Check := if b then .clamp position else .pass

/-- LINES' checks. -/
def linesChecks (body : List Byte) : List Check :=
  inOrder [must (byteAt body 0 == 8) (nowhere .lines 0)] (body.length == 66)
    (forEach 8 (fun l =>
      let o := 2 + 8 * l
      [must (byteAt body o ≤ 3) (pos l), clampIf (qAt body o).2 (pos l), clampIf (wAt body o).2 (pos l)] ++
        thresholdChecks (thresholdAt body (o + 4)) (pos l)) ++
     [inside 1 8 (byteAt body 1) (nowhere .lines 1)])

/-- What a LINES section gives. -/
structure LinesData where
  budget     : Nat
  setups     : Tab LineSetup 8
  thresholds : List (Nat × Nat)
  deriving DecidableEq, Repr

/-- LINES' contents. -/
def linesData (body : List Byte) : LinesData :=
  { budget := (clampTo 1 8 (byteAt body 1)).1
    setups := Tab.tabulate 8 fun l =>
      let o := 2 + 8 * l.val
      ⟨(lineKindOf (byteAt body o)).getD .disabled, (qAt body o).1, (wAt body o).1⟩
    thresholds := (List.range 8).map fun l => thresholdAt body (6 + 8 * l) }

/-! ### DRILLS (R115) -/

/-- The pre-alert source of a record is a PLAYER. -/
def byPlayer (body : List Byte) (o : Nat) : Bool := byteAt body (o + 1) == 1

/-- DRILLS' checks (R115). That a repeat count is checked for a PLAYER only, and that the position of a record counts from
0, are the model's choices (log entries 51 and 48). -/
def drillsChecks (body : List Byte) : List Check :=
  let n := wordAt body 0
  let number (k : Nat) : Nat := byteAt body (2 + 16 * k)
  inOrder [must (n ≤ 7) (nowhere .drills 0)] (body.length == 2 + 16 * n)
    (forEach n fun k =>
      let o := 2 + 16 * k
      let here := pos k
      [must (1 ≤ number k && number k ≤ 7) here, must (fresh k number) here,
       inside 0 600 (wordAt body (o + 2)) here, must (byteAt body (o + 1) ≤ 1) here,
       must (if byPlayer body o then byteAt body (o + 4) ≤ 1 else byteAt body (o + 4) ≤ 7) here,
       must (byteAt body (o + 7) ≤ 7) here, must (byteAt body (o + 12) ≤ 7) here,
       if byPlayer body o then inside 1 4 (byteAt body (o + 6)) here else .pass,
       inside 60 3600 (wordAt body (o + 8)) here, inside 0 3600 (wordAt body (o + 10)) here,
       inside 1 2400 (wordAt body (o + 14)) here])

/-- The profile of a record. -/
def profileAt (body : List Byte) (o : Nat) : Profile :=
  { preAlertSec := (clampTo 0 600 (wordAt body (o + 2))).1
    preAlert := if byPlayer body o then
        .player (Fin.ofNat 2 (byteAt body (o + 4))) (BitVec.ofNat 8 (byteAt body (o + 5)))
          (clampTo 1 4 (byteAt body (o + 6))).1
      else .tone (Fin.ofNat 8 (byteAt body (o + 4)))
    evacPattern := Fin.ofNat 8 (byteAt body (o + 7)), limitSec := (clampTo 60 3600 (wordAt body (o + 8))).1
    autoSec := (clampTo 0 3600 (wordAt body (o + 10))).1, clearPattern := Fin.ofNat 8 (byteAt body (o + 12))
    clearDuration := (clampTo 1 2400 (wordAt body (o + 14))).1 }

/-- The profiles without a DRILLS section: profile 0 only (R115). -/
def profilesDefault : Tab (Option Profile) 8 := (Tab.all 8 none).put 0 (some profile0)

/-- DRILLS' contents: profiles it does not name are undefined (R115). -/
def drillsData (body : List Byte) : Tab (Option Profile) 8 :=
  (List.range (wordAt body 0)).foldl (fun t k =>
    match asFin 8 (byteAt body (2 + 16 * k)) with
    | some p => Tab.put t p (some (profileAt body (2 + 16 * k)))
    | none => t) profilesDefault

/-! ### Sections -/

/-- What a section gives, by its kind. -/
inductive SectionData where
  | site (d : SiteData)
  | groups (d : Tab ZoneSet 128)
  | patterns (d : Tab (List ToneStep) 8)
  | programs (d : Tab (List Entry) 48)
  | calendar (d : CalData)
  | lines (d : LinesData)
  | drills (d : Tab (Option Profile) 8)
  deriving DecidableEq, Repr

/-- The checks of a section's body. -/
def sectionChecks (k : SectKind) (body : List Byte) : List Check :=
  match k with
  | .site => siteChecks body
  | .groups => groupsChecks body
  | .patterns => patternsChecks body
  | .programs => programsChecks body
  | .calendar => calendarChecks body
  | .lines => linesChecks body
  | .drills => drillsChecks body

/-- The contents of a section's body. -/
def sectionData (k : SectKind) (body : List Byte) : SectionData :=
  match k with
  | .site => .site (siteData body)
  | .groups => .groups (groupsData body)
  | .patterns => .patterns (patternsData body)
  | .programs => .programs (programsData body)
  | .calendar => .calendar (calendarData body)
  | .lines => .lines (linesData body)
  | .drills => .drills (drillsData body)

/-- The bytes of a section header (12.6). -/
def sectionHeader : Nat := 6

/-- The body of a section. -/
def bodyOf (section_ : List Byte) : List Byte := section_.drop sectionHeader

/-- A section's header agrees with its kind, its length and the sum of its body (R166, R168). -/
def headerAgrees (k : SectKind) (section_ : List Byte) : Bool :=
  wordAt section_ 0 == k.num && wordAt section_ 2 + sectionHeader == section_.length &&
    pos (wordAt section_ 4) == byteSum (bodyOf section_)

/-! ### Installing at a start (R166) -/

/-- The zone records of a SITE section at a start. -/
def SiteData.zonesAtStart (d : SiteData) : Tab Zone 64 :=
  Tab.tabulate 64 fun z =>
    { Zone.start with building := (d.zones.at z).1, base := (d.zones.at z).2, effective := (d.zones.at z).2 }

/-- The Calendar Unit with the tables of a CALENDAR section. -/
def Calendar.withTables (d : CalData) (c : Calendar) : Calendar :=
  { c with base := d.base, dayMap := d.dayMap, quietGroup := d.quiet, groups := d.groups }

/-- The layout of a SITE section. -/
def Router.withLayout (d : SiteData) (zones : Tab Zone 64) (r : Router) : Router :=
  { r with zones := zones, maps := mapsOf zones, monitor := d.monitor, spread := d.spread }

/-- A section's tables are taken as start values (R166). -/
def State.installAtStart (d : SectionData) (s : State) : State :=
  match d with
  | .site d => (s.onRouter (Router.withLayout d d.zonesAtStart)).setThresholds 8 d.thresholds
  | .groups d => s.onRouter fun r => { r with groups := d }
  | .patterns d => s.onTone fun t => { t with patterns := d }
  | .programs d => s.onBell fun r => { r with programs := d }
  | .calendar d => (s.onCal (Calendar.withTables d)).onTime fun r => { r with dst := d.dst }
  | .lines d =>
    let lines := Tab.tabulate 8 fun l => lineAtStart false (d.setups.at l) ⟨.disabled, none, .a, false⟩
    (s.onLine fun x => { x with budget := d.budget, lines := lines }).setThresholds 0 d.thresholds
  | .drills d => s.onDrill fun x => { x with profiles := d }

/-- A directory entry: kind, offset, length, checksum (12.6). -/
structure DirEntry where
  kind     : Nat
  offset   : Nat
  length   : Nat
  checksum : Word
  deriving DecidableEq, Repr

/-- Directory entry k. -/
def dirEntryAt (m : Mem) (k : Nat) : DirEntry :=
  let o := 4 + 8 * k
  ⟨(m.read o).toNat, (m.readWord (o + 2)).toNat, (m.readWord (o + 4)).toNat, m.readWord (o + 6)⟩

/-- The directory: as many entries as its count gives, at most 7 (R166 step 2). -/
def directory (m : Mem) : List DirEntry := (List.range (min (m.readWord 2).toNat 7)).map (dirEntryAt m)

/-- The EEPROM answers a read: bit 0 the magic word and directory, bit k the section of kind k. -/
def answers (a : BitVec 8) (k : Nat) : Bool := a.getLsbD k

/-- A section that was read, judged (R166 step 3). -/
def judgeRead (k : SectKind) (e : DirEntry) (bytes : List Byte) : SectOutcome :=
  if byteSum bytes != e.checksum || !headerAgrees k bytes then .checksum
  else match judgeChecks none (sectionChecks k (bodyOf bytes)) with
    | .refused c p => .refused c p
    | .passed (some _) => .clamped
    | .passed none => .installed

/-- The outcome of a section kind at a start, with the section's bytes (R166). -/
def sectionOutcome (m : Mem) (a : BitVec 8) (k : SectKind) : SectOutcome × List Byte :=
  if !answers a 0 then (.noStore, [])
  else if m.readWord 0 != Config.magic then (.noImage, [])
  else match (directory m).find? fun e => e.kind == k.num with
    | none => (.absent, [])
    | some e =>
      if e.offset < Config.imageStart || Config.eepromSize < e.offset + e.length then (.entryBad, [])
      else if !answers a k.num then (.noStore, [])
      else
        let bytes := m.readBytes e.offset e.length
        (judgeRead k e bytes, bytes)

/-- A section was installed. -/
def SectOutcome.good : SectOutcome → Bool
  | .installed | .clamped => true
  | .absent | .entryBad | .noStore | .checksum | .refused _ _ | .noImage => false

/-- One section kind at a start: its outcome is kept, and a section that passes is installed and its image
kept (R166). -/
def State.readSection (a : BitVec 8) (k : SectKind) (s : State) : State :=
  let (out, bytes) := sectionOutcome s.power.eeprom a k
  let s1 := s.onPower fun p => { p with outcomes := p.outcomes.put k.index out }
  if out.good then
    (s1.onPower fun p => { p with images := p.images.put k.index (some bytes) }).installAtStart
      (sectionData k (bodyOf bytes))
  else s1

/-- The standing image is read (R166). -/
def State.readImage (a : BitVec 8) (s : State) : State :=
  (s.onPower fun p => { p with images := Tab.all 7 none, changed := Tab.all 7 false }).each SectKind.inOrder
    (State.readSection a)

/-! ### Installing while RUNNING (R168) -/

/-- Zone z takes its building and base mode from a SITE section (R67 step 2). -/
def State.installZone (d : SiteData) (z : ZoneId) : State → State :=
  State.changeZone z fun r => { r with building := (d.zones.at z).1, base := (d.zones.at z).2 }

/-- A SITE section is installed while RUNNING (R67). -/
def State.installSite (d : SiteData) (s : State) : State :=
  let s1 := s.endSessions (s.sessionsWith fun _ => true) .reconfigured
  let s2 := s1.each (allOf 64) (State.installZone d)
  let s3 := s2.onRouter fun r => Router.withLayout d r.zones r
  ((s3.setThresholds 8 d.thresholds).handDayQuiet).handQuietMarks

/-- A CALENDAR section is installed while RUNNING: tables, switches, hand-overs, and then the DST rule (R30,
R50, R16). -/
def State.installCalendar (d : CalData) (s : State) : State :=
  let s1 := (s.onCal fun c => (c.withTables d).findType).bellInstall
  (s1.calCalendarInstalled).installDst d.dst

/-- A section is installed while RUNNING, with its effects (R168). -/
def State.installRunning (d : SectionData) (s : State) : State :=
  match d with
  | .site d => s.installSite d
  | .groups d => (s.onRouter fun r => { r with groups := d }).handDayQuiet
  | .patterns d => s.onTone fun t => { t with patterns := d }
  | .programs d => ((s.onBell fun r => { r with programs := d }).bellInstall).calProgramsInstalled
  | .calendar d => s.installCalendar d
  | .lines d => (s.setThresholds 0 d.thresholds).installLines d.budget d.setups
  | .drills d => s.onDrill fun x => { x with profiles := d }

/-- The condition of R168 step 3. -/
def State.mayInstall (s : State) (k : SectKind) : Bool :=
  match k with
  | .site => s.router.allQuiet
  | .drills => (allOf 6).all fun b => !s.inDrill b
  | _ => true

end Sys2Proof.Machine
end

