-- ==== Sys2Proof/Machine/Power.lean ====
section
/-! DEFINITION. The Power Monitor and Retained Store (10.1 to 10.3): the retained block, starts, the mains, and the changes of power state. -/

namespace Sys2Proof.Machine

/-! ### The evacuation log as bytes (12.6) -/

/-- A stamp's seconds, 0 when absent. -/
def stampSec (t : Option Stamp) : Nat := match t with | some x => x.sec | none => 0

/-- A stamp's eighth, 0 when absent. -/
def stampEighth (t : Option Stamp) : Nat := match t with | some x => x.eighth | none => 0

/-- The 32 bytes of a log record (12.6). -/
def LogRec.bytes (r : LogRec) : List Byte :=
  wordBytes r.serial ++ u8 (bitNum r.isAlarm) ++ u8 r.building.val ++ u8 (orNone r.profile) ++
    u8 r.quality.num ++ u8 r.outcome.num ++
    u8 (bitNum r.evacStart.isSome + 2 * bitNum r.muster.isSome + 4 * bitNum r.evacTime.isSome +
      8 * bitNum r.endTime.isSome) ++
    leBytes 4 r.start.sec ++ leBytes 4 r.preStart.sec ++ leBytes 4 (stampSec r.evacStart) ++
    leBytes 4 (stampSec r.muster) ++ leBytes 4 (stampSec r.endTime) ++
    leBytes 2 (r.start.eighth + 8 * r.preStart.eighth + 64 * stampEighth r.evacStart +
      512 * stampEighth r.muster + 4096 * stampEighth r.endTime) ++ leBytes 2 (r.evacTime.getD 0)

/-- An empty slot (12.6). -/
def emptySlot : List Byte := [0, 0, 255] ++ List.replicate 29 0

/-- The 16 slots of a log copy (R124). -/
def logBytes (log : List LogRec) : List Byte :=
  ((List.range 16).map fun i => match log[i]? with
    | some r => r.bytes
    | none => emptySlot).flatten

/-! ### The retained block (R163) -/

/-- What the retained block holds of a line (R163). -/
def Line.retained (r : Line) : RetLine := ⟨r.kind, r.display, r.polarity, r.stopped⟩

/-- The fields of the retained block as the running state gives them (R163). -/
def State.retFields (s : State) : RetFields :=
  { stdSec := s.time.stdSec, eighth := s.time.eighth, quality := s.time.quality, dstInForce := s.time.dstInForce
    overrides := s.cal.overrides, dates := s.bell.groups.map (·.date), watermarks := s.bell.groups.map (·.watermark)
    lines := s.line.lines.map Line.retained, log := s.drill.log, serial := s.drill.serial }

/-- The words of a line's part of the block, packed by the model (log entry 3). -/
def RetLine.words (r : RetLine) : List Nat :=
  [r.kind.num, displayCode r.display, r.polarity.num, bitNum r.stopped]

/-- The 16-bit words of a byte string. -/
def wordsOf : List Byte → List Nat
  | a :: b :: bs => (a.toNat + 256 * b.toNat) :: wordsOf bs
  | [a] => [a.toNat]
  | [] => []

/-- The words of the block other than the validity word, packed by the model (log entry 3). -/
def RetFields.words (f : RetFields) : List Nat :=
  [f.stdSec % 65536, f.stdSec / 65536, f.eighth, f.quality.num, bitNum f.dstInForce, f.overrides.length] ++
  f.overrides.flatMap (fun o => [o.day, o.dtype.val]) ++
  f.dates.toList.map (fun d => d.getD 0xFFFF) ++
  f.watermarks.toList.flatMap (fun w => wordsOf (leSigned 4 w)) ++
  (f.lines.toList.map RetLine.words).flatten ++
  [f.log.length] ++ f.log.flatMap (fun r => wordsOf r.bytes) ++ [f.serial.toNat]

/-- The 16-bit sum of every other word of the block (R163). -/
def RetFields.sum (f : RetFields) : Word := BitVec.ofNat 16 f.words.sum

/-- The block is valid (R163). -/
def Retained.valid (r : Retained) : Bool := r.validity == r.fields.sum

/-- The block with fields and the validity word that goes with them. -/
def Retained.of (f : RetFields) : Retained := ⟨f, f.sum⟩

/-- The retained block is kept current (R163): whole while RUNNING; while STARTING, the Time Base's fields of a
valid block, the others standing as the last run left them. -/
def State.keep (s : State) : State :=
  if !s.power.supplied then s
  else if s.power.part = .running then s.onPower fun p => { p with retained := Retained.of s.retFields }
  else if s.power.retained.valid then
    s.onPower fun p => { p with retained := Retained.of { p.retained.fields with
      stdSec := s.time.stdSec, eighth := s.time.eighth, quality := s.time.quality
      dstInForce := s.time.dstInForce } }
  else s

/-- A valid block as it stands when a start comes in the middle of a command: current with every change made before it
(R20, R32, R123, R163). An invalid one stays invalid. -/
def State.keepValid (s : State) : State := if s.power.retained.valid then s.keep else s

/-! ### Starts (R164, R165) -/

/-- Quality at a warm start (R20). -/
def qualityAtStart : Quality → Quality
  | .locked => .holdover
  | .holdover => .holdover
  | .free => .free
  | .unset => .unset

/-- The Time Base at a start (R20): the time of a valid block runs on. -/
def timeAtStart (valid : Bool) (f : RetFields) (boundaryDue : Bool) : TimeBase :=
  if valid then
    { TimeBase.cold with
      stdSec := f.stdSec, eighth := f.eighth, boundaryDue := boundaryDue
      quality := qualityAtStart f.quality
      qualityTimer := if qualityAtStart f.quality = .holdover then some 0 else none }
  else TimeBase.cold

/-- Every block at its start values, common memory cleared (R165 step 1, R186). -/
def State.freshBlocks (valid : Bool) (s : State) : State :=
  { s with
    time := timeAtStart valid s.power.retained.fields s.time.boundaryDue
    cal := Calendar.cold, bell := Bell.cold, router := Router.start, tone := ToneBank.start
    drill := DrillCtl.cold, line := LineDrv.start, scan := Scanner.start
    rh := ReqHandler.start s.rh.revision, mem := [], work := Work.idle s.work.free }

/-- DST in force is judged at a warm start, and compared with the retained flag (R20, R163). -/
def State.judgeStartDst (valid : Bool) (s : State) : State :=
  if valid then
    let flag := s.time.dst.inForceAt s.time.stdSec
    (s.onTime fun r => { r with dstInForce := flag }).onPower fun p =>
      { p with dstChanged := flag != p.retained.fields.dstInForce }
  else s.onPower fun p => { p with dstChanged := false }

/-- A warm start: each block takes its retained fields (R33, R52, R126, R148). -/
def State.takeRetained (valid : Bool) (s : State) : State :=
  if valid then
    let f := s.power.retained.fields
    (((s.onCal fun c => { c with overrides := f.overrides }).onBell fun r =>
      { r with groups := Tab.tabulate 8 fun g =>
          { r.groups.at g with date := f.dates.at g, watermark := f.watermarks.at g } }).onLine fun d =>
      { d with lines := Tab.tabulate 8 fun l =>
          let r := d.lines.at l
          lineAtStart true ⟨r.kind, r.q, r.w⟩ (f.lines.at l) }).onDrill fun d =>
      { d with log := f.log, serial := f.serial }
  else s

/-- The fire-contact and muster inputs are sampled (R165 step 4, R126). -/
def State.sampleStart (p : Pins) (s : State) : State :=
  (s.setPins p).onDrill fun d =>
    { d with buildings := Tab.tabulate 6 fun b =>
        { d.buildings.at b with contact := Mask.has p.contacts b.val, muster := Mask.has p.musters b.val
                                contactCount := 0, musterCount := 0 } }

/-- The Power Monitor's record of a start (10.3): STARTING, its cause, no store operation, windows counted
again (R158). That a window which has ended and is not judged yet is dropped is the model's choice (log entry 67). -/
def PowerMon.begin (cause : StartCause) (valid : Bool) (p : PowerMon) : PowerMon :=
  { p with
    part := .starting, cause := if valid then cause else .cold, validAtStart := valid, storeOp := none
    power := if p.mains = .present then .normal else .reserve
    windowCross := 0, windowWhole := p.mains == .present, windowDue := none }

/-- A start (R164, R165): steps 1 to 4. `p` are the input levels at its sampling. -/
def State.start (cause : StartCause) (p : Pins) (s : State) : State :=
  let valid := s.power.retained.valid
  let s1 := ((s.onPower (PowerMon.begin cause valid)).freshBlocks valid).writeStartHeader false
  (((s1.readImage p.storeAnswers).judgeStartDst valid).takeRetained valid).sampleStart p

/-- Supply is applied to the part (R158, R164). That the reset input counts as released is the model's choice (log
entry 20). -/
def State.applySupply (p : Pins) (s : State) : State :=
  (s.onPower fun r =>
    { r with supplied := true, resetAsserted := false, mains := .absent, qualEighths := 0, qualCross := 0
             freq := 0, crossings := 0 }).start .warmPower p

/-- The outputs go off (R164): the crosspoint selects none, PAUSE and the cue bus are off, no generator drives its
bus, and no line drives its enables or its frame. -/
def State.outputsOff (s : State) : State :=
  ((s.onRouter fun r =>
    { r with latched := Tab.all 64 none, frame := none
             players := r.players.map fun p => { p with cueBus := 0, pause := false } }).onTone fun t =>
    { t with gens := t.gens.map fun g => { g with divider := none } }).onLine fun d =>
    { d with lines := d.lines.map fun r => { r with inflight := none } }

/-- The reset input is asserted (R164): outputs off, the bus not served, any start and store operation given
up. -/
def State.assertReset (s : State) : State :=
  if s.power.supplied then
    (s.outputsOff.onPower fun p => { p with resetAsserted := true, storeOp := none }).onRh fun r =>
      { r with writerOn := false }
  else s

/-- The reset input is released (R164). -/
def State.releaseReset (p : Pins) (s : State) : State :=
  if s.power.supplied && s.power.resetAsserted then
    (s.onPower fun r => { r with resetAsserted := false }).start .pin p
  else s

/-- The supply fails, leaving the block's validity word different from the sum (R163). -/
def State.failSupply (torn : Word) (s : State) : State :=
  s.onPower fun p =>
    let t := if torn = 0 then 1 else torn
    { p with supplied := false, storeOp := none
             retained := { p.retained with validity := p.retained.fields.sum ^^^ t } }

/-- The consoles' first sample, at RUNNING (R94). -/
def State.firstKeySample (s : State) : State :=
  s.each (allOf 2) fun c => State.onConsole c fun r =>
    { r with pttCount := bitNum (Mask.has s.pins.ptt c.val), emerCount := bitNum (Mask.has s.pins.emergency c.val) }

/-- The START record of this start (R165). -/
def State.startReport (s : State) : Report :=
  .started s.power.cause s.power.validAtStart s.power.dstChanged s.power.power s.power.outcomes

/-- The part becomes RUNNING (R165 step 5): header, retained block, START record. -/
def State.becomeRunning (s : State) : State :=
  let s1 := ((s.onPower fun p => { p with part := .running }).writeStartHeader s.power.validAtStart).keep
  ((s1.onRh fun r => { r with writerOn := true }).onTime fun r => { r with atBoundary := false }).report s1.startReport

/-- The part reaches RUNNING and the blocks take their actions (R165). -/
def State.enterRunning (s : State) : State :=
  if s.starting then
    (((((s.examineHeld.becomeRunning).calRunning).sendFrame).drillRunning).bellRunning).lineRunning.firstKeySample.whole
  else s

/-! ### Changes of power state (R160 to R162) -/

/-- The power state is set. -/
def State.setPower (p : PowerState) : State → State := State.onPower fun r => { r with power := p }

/-- NORMAL to RESERVE (R160). R160 and R177 leave open in which order the blocks act: that the impulses are cut, then the
sessions end, then the lines give up their grants, is the model's choice (log entry 61). -/
def State.enterReserve (cause : PowerCause) (s : State) : State :=
  let s1 := (s.each (allOf 8) State.cutImpulse).setPower .reserve
  ((s1.sessionsReserve).lineReserve.keep).report (.powerChange .normal .reserve cause s.power.freq)

/-- RESERVE to NORMAL (R161). R161, R48 and R177 leave open in which order the blocks act: that the lines decide, then the resume
rings are offered (R48), then POWER_STATE is handed, is the model's choice (log entry 61). -/
def State.returnNormal (s : State) : State :=
  (((s.setPower .normal).lineMainsBack).bellMainsBack).report (.powerChange .reserve .normal .mainsReturned s.power.freq)

/-- RESERVE to RETAINED (R162). -/
def State.enterRetained (s : State) : State :=
  let s1 := ((s.sessionsRetained.onTime TimeBase.retain).onScan Scanner.abandon).onWork
    fun w => { w with ended := false, standDowns := [] }
  let s2 := (s1.setPower .retained).onPower fun p => { p with storeOp := none }
  ((s2.report (.powerChange .reserve .retained .batteryLow s.power.freq)).onRh fun r =>
    { r with writerOn := false }).keep

/-- The mains has left PRESENT (R159). While the blocks do not run, the power state follows silently. -/
def State.mainsLeft (cause : PowerCause) (s : State) : State :=
  if s.power.power = .normal then (if s.up then (s.enterReserve cause).whole else s.setPower .reserve) else s

/-- The mains has become PRESENT (R159); in RETAINED it makes a start. -/
def State.mainsCame (s : State) : State :=
  match s.power.power with
  | .normal => s
  | .reserve => if s.up then s.returnNormal.whole else s.setPower .normal
  | .retained =>
    if s.live then (s.keepValid.onPower fun p => { p with qualEighths := 0, qualCross := 0 }).start .warmPower s.pins else s

/-! ### The mains (R158) -/

/-- A pulse on the zero-cross input (R158). -/
def PowerMon.cross (p : PowerMon) : PowerMon := { p with crossings := p.crossings + 1 }

/-- The mains state after an eighth with c crossings (R158). -/
def PowerMon.judgeEighth (c : Nat) (p : PowerMon) : PowerMon :=
  match p.mains with
  | .present => if c = 0 then { p with mains := .absent, qualEighths := 0, qualCross := 0 } else p
  | .absent => if c = 0 then p else { p with mains := .qualifying, qualEighths := 1, qualCross := c }
  | .qualifying =>
    if c = 0 then { p with mains := .absent, qualEighths := 0, qualCross := 0 }
    else if p.qualEighths + 1 < 40 then { p with qualEighths := p.qualEighths + 1, qualCross := p.qualCross + c }
    else if 225 ≤ p.qualCross + c && p.qualCross + c ≤ 325 then
      { p with mains := .present, qualEighths := 0, qualCross := 0 }
    else { p with qualEighths := 0, qualCross := 0 }

/-- The window at the end of an eighth with c crossings: at a multiple of 64 one ends, to be judged if the
mains was PRESENT throughout, and the next begins (R158). -/
def PowerMon.window (now c : Nat) (p : PowerMon) : PowerMon :=
  let whole := p.windowWhole && p.mains == .present
  let sum := p.windowCross + c
  if now % 64 = 0 then
    { p with windowDue := if whole then some sum else none, windowCross := 0, windowWhole := p.mains == .present }
  else { p with windowCross := sum, windowWhole := whole }

/-- The mains is judged at an eighth boundary (R158). Where the boundary ends a window as well, the rule does not order the
two judgements; that the eighth is judged first is the model's choice (log entry 68): one without crossing makes the mains
ABSENT with cause MAINS_LOST, and the window is then not judged and leaves the frequency count as it was. -/
def State.judgeMains (s : State) : State :=
  let c := s.power.crossings
  let t := s.onPower fun p => ((p.judgeEighth c).window s.now c |> fun q => { q with crossings := 0 })
  if s.power.mains = .present && t.power.mains != .present then t.mainsLeft .mainsLost
  else if s.power.mains != .present && t.power.mains = .present then t.mainsCame
  else t

/-- Battery-low is sampled at an eighth boundary (R159), by a part that is RUNNING. Under an asserted reset, where R164 has
the Power Monitor run and does not speak of it, it is not acted on: the model's choice (log entry 20). -/
def State.sampleBattery (s : State) : State :=
  if s.up && s.power.power == .reserve && s.pins.batteryLow then s.enterRetained else s

/-- The power monitor at an eighth boundary, in the order given (R159). -/
def State.judgePower (batteryFirst : Bool) (s : State) : State :=
  if batteryFirst then s.sampleBattery.judgeMains else s.judgeMains.sampleBattery

/-- A frequency window that has ended is judged (R158). Battery-low was sampled at the boundary before it, so that where
the window takes the part to RESERVE, RETAINED can come at the next boundary only: the model's choice (log entry 62). -/
def State.windowEnd (s : State) : State :=
  match s.power.windowDue with
  | none => s
  | some n =>
    if s.power.supplied then
      let t := s.onPower fun p => { p with windowDue := none, freq := min n 65535 }
      if t.power.mains = .present && (n < 360 || 520 < n) then
        (t.onPower fun p => { p with mains := .absent, qualEighths := 0, qualCross := 0, windowWhole := false }).mainsLeft
          .frequency
      else t
    else s

end Sys2Proof.Machine
end

