-- ==== Sys2Proof/Machine/Requests.lean ====
section
/-! DEFINITION. The Request Handler (11.2, 11.3): takes, judgement, completion, sweeps, the store requests in flight, and the posting of a request by the host (12.3). -/

namespace Sys2Proof.Machine

/-! ### The copy of a request (R173, 12.3) -/

/-- The part's own copy of a request: kind, tag and the 40 bytes of parameters (R173). -/
structure Request where
  kind   : Nat
  tag    : Word
  params : List Byte
  deriving DecidableEq, Repr

/-- The bytes of a cell's parameter area (12.3). -/
def paramBytes : Nat := 40

/-- The copy taken of cell i, whose state word read w. -/
def State.copyOf (s : State) (i : CellId) (w : Word) : Request :=
  ⟨w.toNat / 256, s.mem.readWord (cellBase i + 2), s.mem.readBytes (cellBase i + 8) paramBytes⟩

/-- A parameter byte. -/
def Request.u8 (r : Request) (o : Nat) : Nat := byteAt r.params o
/-- A parameter word. -/
def Request.u16 (r : Request) (o : Nat) : Nat := wordAt r.params o
/-- A parameter mask of zones. -/
def Request.mask (r : Request) (o : Nat) : ZoneSet := maskAt r.params o

/-! ### Completion (R175, R187) -/

/-- A code of a request that was carried out (R175 step 5). -/
def Code.done (c : Code) : Bool := c == .ok || c == .clamped

/-- DONE or REFUSED, by the result code (R175 step 5). -/
def Code.cellState (c : Code) : Nat := if c.done then 3 else 4

/-- The state word a completion leaves (R187). -/
def finalWord (kind : Nat) (c : Code) : Nat := c.cellState + 16 * c.num + 256 * kind

/-- Cell i as a completion writes it: result area, tag, detail and count, and the state word last (R175). -/
def Mem.answer (i : CellId) (kind : Nat) (tag count : Word) (a : Answer) (m : Mem) : Mem :=
  ((m.write (cellBase i + 48) (fit 16 a.result)).write (cellBase i + 2)
    (wordBytes tag ++ wordBytes a.detail ++ wordBytes count)).write (cellBase i) (leBytes 2 (finalWord kind a.code))

/-- A request is completed (R175). -/
def State.complete (i : CellId) (kind : Nat) (tag : Word) (a : Answer) (s : State) : State :=
  let count := (s.rh.cells.at i).count + 1
  ((s.onMem (Mem.answer i kind tag count a)).onRh fun r =>
    { r with cells := r.cells.put i ⟨false, count⟩ }).notify .cell

/-! ### Request kinds (12.1) -/

/-- The sixteen request kinds. -/
inductive ReqKind where
  | timeSet | dayOverride | admissionSet | announce | cancel | consoleSet | drillStart | drillAbort | allClear
  | hush | logCopy | lineSetDisplay | lineControl | load | save | restart
  deriving DecidableEq, Repr

/-- A request kind's code (12.1). -/
def ReqKind.num : ReqKind → Nat
  | .timeSet => 1 | .dayOverride => 2 | .admissionSet => 3 | .announce => 4 | .cancel => 5 | .consoleSet => 6
  | .drillStart => 7 | .drillAbort => 8 | .allClear => 9 | .hush => 10 | .logCopy => 11 | .lineSetDisplay => 12
  | .lineControl => 13 | .load => 14 | .save => 15 | .restart => 16

/-- A request kind by its code (12.1, R174 step 1). -/
def reqKindOf : Nat → Option ReqKind
  | 1 => some .timeSet | 2 => some .dayOverride | 3 => some .admissionSet | 4 => some .announce
  | 5 => some .cancel | 6 => some .consoleSet | 7 => some .drillStart | 8 => some .drillAbort
  | 9 => some .allClear | 10 => some .hush | 11 => some .logCopy | 12 => some .lineSetDisplay
  | 13 => some .lineControl | 14 => some .load | 15 => some .save | 16 => some .restart | _ => none

/-! ### Store requests (R124, R167, R169) -/

/-- A store operation goes in flight for cell i (R176). -/
def State.goInFlight (i : CellId) (op : StoreOp) (s : State) : State :=
  (s.onPower fun p => { p with storeOp := some op }).onRh fun r =>
    { r with cells := r.cells.put i { r.cells.at i with inFlight := true } }

/-- What a taken request comes to: an answer now, or none where it goes in flight or is never answered. -/
abbrev Taken := State × Option Answer

/-- A refusal with its code. -/
def refuse (c : Code) (s : State) : Taken := (s, some (.plain c))

/-- LOG_COPY judged (R124). -/
def State.takeLogCopy (i : CellId) (tag : Word) (offset : Nat) (s : State) : Taken :=
  if offset % 2 = 1 || 7680 < offset then refuse .badParam s
  else if s.power.storeOp.isSome then refuse .busy s
  else (s.goInFlight i (.logCopy i tag offset s.drill.log false), none)

/-- LOAD judged (R167). -/
def State.takeLoad (i : CellId) (tag : Word) (kind offset length : Nat) (s : State) : Taken :=
  if s.power.storeOp.isSome then refuse .busy s
  else match sectOf kind with
    | none => refuse .badParam s
    | some k =>
      if offset % 2 = 1 || length % 2 = 1 || length < sectionHeader || 8192 < offset + length then
        refuse .badParam s
      else (s.goInFlight i (.load i tag k offset length [] false), none)

/-- The section images in the order of R169, each with its kind. -/
def PowerMon.held (p : PowerMon) : List (SectKind × List Byte) :=
  SectKind.inOrder.filterMap fun k => (p.images.at k.index).map fun b => (k, b)

/-- The offsets of sections laid one after another (R169 step 1). -/
def layOut : Nat → List (SectKind × List Byte) → List (SectKind × Nat × List Byte)
  | _, [] => []
  | o, (k, b) :: rest => (k, o, b) :: layOut (o + b.length) rest

/-- The directory's count and entries (12.6). -/
def directoryBytes (xs : List (SectKind × Nat × List Byte)) : List Byte :=
  leBytes 2 xs.length ++ xs.flatMap fun x =>
    u8 x.1.num ++ u8 0 ++ leBytes 2 x.2.1 ++ leBytes 2 x.2.2.length ++ wordBytes (byteSum x.2.2)

/-- Bytes from an EEPROM offset cut into the pages of 64 that the EEPROM has (R169); the fuel is one page for
each byte at most. -/
def pagesFrom : Nat → Nat → List Byte → List (Nat × List Byte)
  | 0, _, _ => []
  | k + 1, o, bs =>
    if bs.isEmpty then []
    else
      let n := 64 - o % 64
      (o, bs.take n) :: pagesFrom k (o + n) (bs.drop n)

/-- The page writes of a SAVE: sections, directory, magic word (R169). -/
def savePlan (xs : List (SectKind × List Byte)) : List (Nat × List Byte) :=
  let body := xs.flatMap fun x => x.2
  pagesFrom (body.length + 1) Config.imageStart body ++
    [(2, directoryBytes (layOut Config.imageStart xs)), (0, wordBytes Config.magic)]

/-- The bytes a SAVE writes. -/
def planBytes (plan : List (Nat × List Byte)) : Nat := (plan.map fun x => x.2.length).sum

/-- Some section's changed mark is set (R169). -/
def PowerMon.anyChanged (p : PowerMon) : Bool := (allOf 7).any fun i => p.changed.at i

/-- The operation a SAVE starts (R169). -/
def PowerMon.saveOp (i : CellId) (tag : Word) (p : PowerMon) : StoreOp :=
  if p.anyChanged then
    .save i tag (savePlan p.held) p.held.length (planBytes (savePlan p.held)) false
  else .saveNothing i tag false

/-- SAVE judged (R169). -/
def State.takeSave (i : CellId) (tag : Word) (s : State) : Taken :=
  if s.power.storeOp.isSome then refuse .busy s else (s.goInFlight i (s.power.saveOp i tag), none)

/-! ### Judgement (R174) -/

/-- An answer given at once. -/
def answered (x : State × Answer) : Taken := (x.1, some x.2)

/-- The parameters of a TIME_SET (12.3). -/
def Request.timeParams (r : Request) : TimeParams :=
  ⟨r.u16 0, r.u8 2, r.u8 3, r.u8 4, r.u8 5, r.u8 6, r.u8 7⟩

/-- The parameters of an ANNOUNCE (12.3). -/
def Request.announceParams (r : Request) : AnnounceParams :=
  { cls := r.u8 0, source := r.u8 1, which := r.u8 2, message := BitVec.ofNat 8 (r.u8 3), repeats := r.u8 4
    duration := r.u16 6, deferLimit := r.u16 8, kind := r.u8 10, group := r.u8 11, mask := r.mask 16 }

/-- A copy of a known kind handed to the block that owns it (R174). -/
def State.route (i : CellId) (k : ReqKind) (r : Request) (s : State) : Taken :=
  match k with
  | .timeSet => answered (s.takeTimeSet r.timeParams)
  | .dayOverride => answered (s.takeDayOverride (r.u8 0) (r.u8 1) (r.u16 2) (r.u8 4) (r.u8 5))
  | .admissionSet => answered (s.takeAdmission (r.u8 0) (r.u8 1) (r.u16 2) (r.u8 4) (r.mask 8))
  | .announce => answered (s.takeAnnounce i r.tag r.announceParams)
  | .cancel => answered (s.takeCancel (r.u8 0) (r.u8 1) (BitVec.ofNat 16 (r.u16 2)))
  | .consoleSet => answered (s.takeConsoleSet (r.u8 0) (r.u8 1) (r.u8 2))
  | .drillStart => answered (s.takeDrillStart (r.u8 0) (r.u8 1))
  | .drillAbort => answered (s.takeBuildings State.drillAbortOne (r.u8 0))
  | .allClear => answered (s.takeBuildings State.allClearOne (r.u8 0))
  | .hush => answered (s.takeBuildings State.hushOne (r.u8 0))
  | .logCopy => s.takeLogCopy i r.tag (r.u16 0)
  | .lineSetDisplay => answered (s.takeSetDisplay (r.u8 0) (r.u8 1) (r.u16 2))
  | .lineControl => answered (s.takeLineControl (r.u8 0) (r.u8 1))
  | .load => s.takeLoad i r.tag (r.u8 0) (r.u16 2) (r.u16 4)
  | .save => s.takeSave i r.tag
  | .restart => (s.keepValid.start .request s.pins, none)

/-- The copy of cell i's request judged and carried out (R174). -/
def State.judgeRequest (i : CellId) (r : Request) (s : State) : Taken :=
  match reqKindOf r.kind with
  | none => refuse .unknownKind s
  | some k => s.route i k r

/-- The request kinds whose effect can make or end sessions. -/
def ReqKind.sounds : ReqKind → Bool
  | .timeSet | .dayOverride | .admissionSet | .announce | .cancel | .drillStart | .drillAbort | .allClear | .hush => true
  | .consoleSet | .logCopy | .lineSetDisplay | .lineControl | .load | .save | .restart => false

/-- What a request of a kind leaves to be dealt with (R108, R122): nothing where it was refused, or reaches no
session. -/
def State.afterTake (kind : Nat) (c : Code) (s : State) : State :=
  match reqKindOf kind with
  | some k => if c.done && k.sounds then s.whole else s
  | none => s

/-- A request carried out whole, and completed if it was answered. -/
def State.carryOut (i : CellId) (r : Request) (s : State) : State :=
  match s.judgeRequest i r with
  | (t, some a) => (t.afterTake r.kind a.code).complete i r.kind r.tag a
  | (t, none) => t

/-! ### Sweeps (R172, R173) -/

/-- The state word with TAKEN in place of POSTED (R187). -/
def takenWord (w : Word) : Word := w + 1

/-- Cell i as a sweep deals with it (R173). -/
def State.sweepCell (i : CellId) (s : State) : State :=
  if (s.rh.cells.at i).inFlight then s
  else
    let w := s.mem.readWord (cellBase i)
    if w.toNat % 16 = 1 then
      (s.onMem fun m => m.write (cellBase i) (wordBytes (takenWord w))).carryOut i (s.copyOf i w)
    else s

/-- One pass over the cells; a RESTART ends it (R170, R172). -/
def State.sweepPass (s : State) : State :=
  s.each (allOf 24) fun i s => if s.up then s.sweepCell i else s

/-- A sweep is in progress. -/
def State.beginSweep : State → State := State.onRh fun r => { r with sweeping := true, again := false }

/-- A sweep has ended: it is counted, and the next page is looked at while records wait (R172, R180). -/
def State.endSweep (s : State) : State :=
  let t := s.onRh fun r => { r with sweepCount := r.sweepCount + 1, sweeping := r.again }
  if t.rh.queue.isEmpty then t else t.drainQueue

/-- A write of SWEEP that falls into a sweep, with the host's writes before it: the sweep-again mark is set, and a mark
already set stays set (R172). -/
def State.askDuring (ws : List MemWrite) (s : State) : State :=
  (s.hostWrites ws).onRh fun r => { r with again := true }

/-- The writes of SWEEP that fall into one sweep (R172). -/
def askList (a : SweepAsks) : List (List MemWrite) := a.first :: a.more

/-- The host's writes of the asks of several sweeps. -/
def sweepWrites (asks : List SweepAsks) : List MemWrite := (asks.flatMap askList).flatten

/-- A sweep, and one more after each sweep that was asked for again, however often (R172). A sweep with its passes is one
step, so that the completion of a store operation, which R176 lets fall inside a later sweep or between sweeps, falls
between sweeps: the model's choice (log entry 57). -/
def State.sweepWith : List SweepAsks → State → State
  | [], s => if s.beginSweep.sweepPass.up then s.beginSweep.sweepPass.endSweep else s.beginSweep.sweepPass
  | a :: more, s =>
    let t := s.beginSweep.sweepPass
    if t.up then State.sweepWith more (t.each (askList a) State.askDuring).endSweep
    else t.hostWrites (sweepWrites (a :: more))

/-- A sweep is asked for; in STARTING and RETAINED the ask is dropped, whatever the host writes (R172). -/
def State.askSweep (asks : List SweepAsks) (s : State) : State :=
  if s.up then s.sweepWith asks else s.hostWrites (sweepWrites asks)

/-! ### Store operations in flight (R124, R168, R169) -/

/-- The store operation in flight is over: its cell is completed (R176). -/
def State.finishOp (i : CellId) (k : ReqKind) (tag : Word) (a : Answer) (s : State) : State :=
  (s.onPower fun p => { p with storeOp := none }).complete i k.num tag a

/-- The next 512 words of a LOAD's range, as far as it goes (R167). -/
def copyStep (m : Mem) (offset length : Nat) (copied : List Byte) : List Byte :=
  copied ++ m.readBytes (stagingBase + offset + copied.length) (min 1024 (length - copied.length))

/-- An eighth boundary at the store operation: from the first after its take it goes on (R124, R167, R169). -/
def StoreOp.atBoundary (m : Mem) : StoreOp → StoreOp
  | .load i tag k o n copied _ => .load i tag k o n (copyStep m o n copied) true
  | .save i tag plan sections bytes _ => .save i tag plan sections bytes true
  | .saveNothing i tag _ => .saveNothing i tag true
  | .logCopy i tag o log _ => .logCopy i tag o log true

/-- The store operation at an eighth boundary. -/
def State.storeTick (s : State) : State :=
  if s.up then s.onPower fun p => { p with storeOp := p.storeOp.map (StoreOp.atBoundary s.mem) } else s

/-- The serial of the oldest record (R124); 0 for an empty log, which has none (log entry 8). -/
def oldestSerial (log : List LogRec) : Word :=
  match log with
  | r :: _ => r.serial
  | [] => 0

/-- LOG_COPY's answer (12.3). -/
def logCopyAnswer (log : List LogRec) : Answer := ⟨.ok, 0, leBytes 2 log.length ++ wordBytes (oldestSerial log)⟩

/-- The log copy is written into staging and its request completes (R124). -/
def State.logCopyWrite (s : State) : State :=
  match s.power.storeOp with
  | some (.logCopy i tag o log true) =>
    if s.up then
      (s.onMem fun m => m.write (stagingBase + o) (logBytes log)).finishOp i .logCopy tag (logCopyAnswer log)
    else s
  | _ => s

/-- A SAVE that has nothing to write completes (R169). -/
def State.saveNothingDone (s : State) : State :=
  match s.power.storeOp with
  | some (.saveNothing i tag true) =>
    if s.up then s.finishOp i .save tag ⟨.ok, 0, u8 0 ++ u8 0 ++ leBytes 2 0⟩ else s
  | _ => s

/-- LOAD's answer: the outcome, the kind and the position (R168, 12.3). -/
def loadAnswer (c : Code) (k : SectKind) (p : Word) : Answer := ⟨c, p, u8 c.num ++ u8 k.num ++ wordBytes p⟩

/-- A copied section that passed its checks: the condition, and the install (R168 steps 3 and 4). -/
def State.installLoaded (k : SectKind) (bytes : List Byte) (clamped : Option Word) (s : State) : State × Answer :=
  if s.mayInstall k then
    let t := s.onPower fun p =>
      { p with images := p.images.put k.index (some bytes), changed := p.changed.put k.index true }
    (t.installRunning (sectionData k (bodyOf bytes)), loadAnswer (okOr clamped.isSome) k (clamped.getD 0))
  else (s, loadAnswer .state k 0)

/-- A copied section judged (R168). -/
def State.judgeLoaded (k : SectKind) (bytes : List Byte) (s : State) : State × Answer :=
  if !headerAgrees k bytes then (s, loadAnswer .checksum k 0)
  else match judgeChecks none (sectionChecks k (bodyOf bytes)) with
    | .refused c p => (s, loadAnswer c k p)
    | .passed clamped => s.installLoaded k bytes clamped

/-- The copy of a LOAD has ended (R168). -/
def State.loadCopyEnd (s : State) : State :=
  match s.power.storeOp with
  | some (.load i tag k _ n copied true) =>
    if s.up && copied.length == n then
      let r := s.judgeLoaded k copied
      (if r.2.code.done then r.1.whole else r.1).finishOp i .load tag r.2
    else s
  | _ => s

/-- The EEPROM updated. -/
def State.onEeprom (f : Mem → Mem) : State → State := State.onPower fun p => { p with eeprom := f p.eeprom }

/-- A SAVE stops with a fault of the page at an offset (R169). -/
def State.storeFault (i : CellId) (tag : Word) (offset : Nat) (s : State) : State :=
  s.finishOp i .save tag ⟨.storeFault, BitVec.ofNat 16 offset, []⟩

/-- A page of a SAVE was written and compared equal: the next follows, or the SAVE completes (R169). -/
def State.pageDone (i : CellId) (tag : Word) (rest : List (Nat × List Byte)) (sections bytes : Nat) (s : State) :
    State :=
  if rest.isEmpty then
    (s.onPower fun p => { p with changed := Tab.all 7 false }).finishOp i .save tag
      ⟨.ok, 0, u8 sections ++ u8 0 ++ leBytes 2 bytes⟩
  else s.onPower fun p => { p with storeOp := some (.save i tag rest sections bytes true) }

/-- A page write ends (R169). That a page which is not acknowledged keeps its old bytes whole is the model's choice
(log entry 34). -/
def State.savePageWrite (result : PageResult) (s : State) : State :=
  match s.power.storeOp with
  | some (.save i tag ((o, bs) :: rest) sections bytes true) =>
    if s.up then
      match result with
      | .ok => (s.onEeprom fun m => m.write o bs).pageDone i tag rest sections bytes
      | .noAck => s.storeFault i tag o
      | .readsBack got =>
        let t := s.onEeprom fun m => m.write o (fit bs.length got)
        if fit bs.length got = bs then t.pageDone i tag rest sections bytes else t.storeFault i tag o
    else s
  | _ => s

/-! ### The age of a page (R179) -/

/-- The current page is 16 eighths old (R179). -/
def State.pageOld (s : State) : Bool :=
  s.up && match s.rh.current with
    | some c => match c.first with
      | some t => decide (t + Config.pageAge ≤ s.now)
      | none => false
    | none => false

/-- The current page is closed by age, and records that wait are placed (R179). -/
def State.pageAgeClose (s : State) : State :=
  match s.rh.current with
  | some c =>
    if s.pageOld then
      let t := s.closePage c
      if t.rh.queue.isEmpty then t else t.drainQueue
    else s
  | none => s

/-! ### The host posts a request (11.3, 12.3) -/

/-- The host writes a request into cell i and then POSTED into its state word (11.3). -/
def Mem.post (i : CellId) (k : ReqKind) (tag : Word) (params : List Byte) (m : Mem) : Mem :=
  ((m.write (cellBase i + 8) (fit paramBytes params)).write (cellBase i + 2) (wordBytes tag)).write (cellBase i)
    (leBytes 2 (1 + 256 * k.num))

/-- Cell i as the take of a request just posted leaves it: its tag and parameters, and TAKEN in its state word
(R173, R187). -/
def Mem.postTaken (i : CellId) (k : ReqKind) (tag : Word) (params : List Byte) (m : Mem) : Mem :=
  (m.post i k tag params).write (cellBase i) (wordBytes (takenWord (BitVec.ofNat 16 (1 + 256 * k.num))))

/-- The state in which a request just posted in cell i is judged (R173). -/
def State.posted (i : CellId) (k : ReqKind) (tag : Word) (params : List Byte) : State → State :=
  State.onMem (Mem.postTaken i k tag params)

/-- The host posts a request in cell i, and the sweep comes to it (R173). Where the host bus is not served the
post is dropped; where no sweep is made the cell stays POSTED. -/
def State.postAndTake (i : CellId) (k : ReqKind) (tag : Word) (params : List Byte) (s : State) : State :=
  if s.busServed then
    let t := s.onMem (Mem.post i k tag params)
    if t.up then t.sweepCell i else t
  else s

/-- The target fields of a request: kind, group and mask (R56). -/
def targetMask (t : TargetParam) : List Byte := maskBytes t.mask

/-- The parameters of a TIME_SET (12.3). -/
def timeSetParams (year : Word) (month day hour minute second force : Byte) : List Byte :=
  wordBytes year ++ [month, day, hour, minute, second, force]

/-- The parameters of a DAY_OVERRIDE (12.3). -/
def dayOverrideParams (action dayType : Byte) (year : Word) (month day : Byte) : List Byte :=
  [action, dayType] ++ wordBytes year ++ [month, day]

/-- The parameters of an ADMISSION_SET (12.3). -/
def admissionParams (t : TargetParam) (action : Byte) (minutes : Word) : List Byte :=
  [t.kind, action] ++ wordBytes minutes ++ [t.group, 0, 0, 0] ++ targetMask t

/-- The parameters of an ANNOUNCE (12.3). -/
def announceParams (cls source which message repeats : Byte) (duration deferLimit : Word) (t : TargetParam) :
    List Byte :=
  [cls, source, which, message, repeats, 0] ++ wordBytes duration ++ wordBytes deferLimit ++
    [t.kind, t.group, 0, 0, 0, 0] ++ targetMask t

/-- The parameters of a CANCEL (12.3). -/
def cancelParams (mode number : Byte) (tag : Word) : List Byte := [mode, number] ++ wordBytes tag

/-- The parameters of a LINE_SET_DISPLAY (12.3). -/
def setDisplayParams (line polarity : Byte) (position : Word) : List Byte :=
  [line, polarity] ++ wordBytes position

/-- The parameters of a LOAD (12.3). -/
def loadParams (kind : Byte) (offset length : Word) : List Byte :=
  [kind, 0] ++ wordBytes offset ++ wordBytes length

end Sys2Proof.Machine
end

