-- ==== Sys2Proof/Machine/Eighth.lean ====
section
/-! DEFINITION. The end of an eighth (R1): what is still due of the instant before, the host's writes, and the boundary's own work in every block. -/

namespace Sys2Proof.Machine

/-! ### What is still due (log entry 10)

Each event of an eighth boundary is a command of its own, and takes its effect when it comes. What has not come by
the end of the eighth is taken here, in one fixed order, so that no due event is ever lost. -/

/-- The Time Base's due events (R2, R4, R9). -/
def State.dueTime (s : State) : State := s.secondBoundary.lockedEnd.holdoverEnd.telegramTimeout

/-- The due events of zones, sessions, players and generators (R63, R77 to R82, R95, R102). -/
def State.dueSessions (s : State) : State :=
  let s1 := (s.each (allOf 64) State.overrideExpiry).crosspoint
  let s2 := s1.each (allOf 16) fun n s => (((s.deferExpire n).giveUp n).durationEnd n).pauseAbandon n
  let s3 := s2.each (allOf 2) fun p s => ((s.playingRise p).playingFall p).cueTimeout p
  s3.each (allOf 4) State.phaseEnd

/-- The due events of the consoles' keys (R83, R84). -/
def State.dueKeys (s : State) : State :=
  s.each (allOf 2) fun c s => ((s.emergencyChange c).pttRelease c).pttPress c

/-- The due events of the buildings (R105, R106, R117, R119, R120). -/
def State.dueBuildings (s : State) : State :=
  s.each (allOf 6) fun b s =>
    let s1 := (s.contactOpens b).contactCloses b
    let s2 := (s1.musterReleases b).musterPresses b
    ((s2.prealertExpire b).limitExpire b).autoExpire b

/-- The impulses and frames of the clock lines that have run out (R131, R141). -/
def State.dueLineEnds (s : State) : State := s.each (allOf 8) fun l s => (s.frameOverdue l).impulseEnd l

/-- The fast impulses and probes that are due (R137, R140), those of grants just passed on among them. -/
def State.dueLineStarts (s : State) : State := s.each (allOf 8) fun l s => (s.fastImpulse l).probeTimerExpire l

/-- The instant of a boundary is left: the select requests still due at it are made, in ascending line number, and
the scan that waited for them looks for the converter (R150, R151). The requests of one instant join in the order in
which their commands come before it is left; that those left to the model join in ascending number is log entry 12. -/
def State.leaveInstant (s : State) : State :=
  let t := s.each (allOf 8) State.askSelect
  if t.up then t.onScan Scanner.takeScan else t

/-- The due events of the store, the mains and the pages (R124, R158, R168, R169, R179). -/
def State.dueStore (s : State) : State :=
  s.logCopyWrite.loadCopyEnd.saveNothingDone.windowEnd.pageAgeClose

/-- An event that is due at the boundary of the present elapsed count. -/
def State.atInstant : State → State := State.onTime fun r => { r with atBoundary := true }

/-- Every due event: each is one of the boundary's instant (R129), the lines' impulses last, once every grant of the
instant has been passed on and every install made. -/
def State.dueAll (s : State) : State :=
  (s.atInstant.dueTime.dueBuildings.dueKeys.dueSessions.dueLineEnds.dueStore.dueLineStarts).leaveInstant

/-! ### Sampling at the boundary (R83, R105, R106) -/

/-- A debounce count after a sample. -/
def debounce (level sampled : Bool) (count : Nat) : Nat := if sampled = level then 0 else count + 1

/-- Building b's inputs are sampled (R105, R106). -/
def Building.sample (p : Pins) (b : BuildingId) (r : Building) : Building :=
  { r with
    contactCount := debounce r.contact (Mask.has p.contacts b.val) r.contactCount
    musterCount := debounce r.muster (Mask.has p.musters b.val) r.musterCount }

/-- A console's keys are sampled (R83). -/
def Console.sample (p : Pins) (c : ConsoleId) (r : Console) : Console :=
  { r with
    pttCount := debounce r.ptt (Mask.has p.ptt c.val) r.pttCount
    emerCount := debounce r.emergency (Mask.has p.emergency c.val) r.emerCount }

/-- Building b's contact is sampled in STARTING: the debounced level changes with no closure, as the level
at RUNNING is what the controller acts on (R105, R126). -/
def Building.sampleStarting (p : Pins) (b : BuildingId) (r : Building) : Building :=
  let n := debounce r.contact (Mask.has p.contacts b.val) r.contactCount
  if Config.contactSamples ≤ n then { r with contact := !r.contact, contactCount := 0 }
  else { r with contactCount := n }

/-- The building and console inputs are sampled. -/
def State.sampleInputs (s : State) : State :=
  if s.up then
    (s.each (allOf 6) fun b => State.onBuilding b (Building.sample s.pins b)).each (allOf 2)
      fun c => State.onConsole c (Console.sample s.pins c)
  else if s.starting then s.each (allOf 6) fun b => State.onBuilding b (Building.sampleStarting s.pins b)
  else s

/-! ### The boundary -/

/-- The Supervision Scanner at an eighth boundary: the scan looks for the converter at once, or after the select
requests of this instant, which come in whatever order they are sent (R150, R151; log entry 12). -/
def State.scanTick (selectFirst : Bool) (s : State) : State :=
  if s.up then
    (s.each (allOf 8) State.askedProbe).onScan fun r => if selectFirst then { r with scanDue := true } else r.scan
  else s

/-- A frame starts at this boundary if a selection has changed since the one before, be it back again, and carries the
selections as they stand here (R79). -/
def State.judgeFrame (s : State) : State :=
  if s.up then
    let t := s.noteSelections
    t.onRouter fun r => { r with frame := if r.changed then some t.selections else none, changed := false }
  else s

/-- PLAYING is sampled with PAUSE as it stands at this boundary (R81). -/
def State.samplePlayers (s : State) : State :=
  if s.up then s.onRouter fun r => { r with players := r.players.map fun q => { q with pauseAtLast := q.pause } } else s

/-- The pins as they stand at this boundary. -/
def State.meetBoundary (p : Pins) (s : State) : State :=
  ((s.setPins p).samplePlayers).onTime fun r => { r with atBoundary := true }

/-- The boundary's work once time has advanced: generators, power, inputs, the store, lines and the scan, in this order
by the model's choice (log entry 47). -/
def State.boundaryWork (inp : BoundaryInput) (s : State) : State :=
  let s1 := if s.up then s.toneTick else s
  ((((s1.judgePower inp.batteryFirst).sampleInputs).storeTick).scanTick inp.selectFirst)

/-- The second of this boundary, where the sender takes it before the boundary's work (R2, log entries 12 and 47). -/
def State.secondAt (secondFirst : Bool) (s : State) : State := if secondFirst then s.secondBoundary else s

/-- The end of an eighth (R1): time advances first (R2), then come the boundary's work and last its sweep (R172), the
seconds of the same boundary before them or after them as the sender says. The rules order none of these; that the work
follows the count and the sweep follows the work is the model's choice (log entry 47). So an impulse whose width ends at
this boundary meets first a change of power or a LINE request taken here, and R132 or the host's display decides of it
(log entry 54). -/
def State.eighthEnd (inp : BoundaryInput) (s : State) : State :=
  if s.power.supplied then
    let s1 := ((s.dueAll.hostWrites inp.host).judgeFrame.meetBoundary inp.pins).advanceTime
    ((s1.secondAt inp.secondFirst).boundaryWork inp).askSweep inp.asks
  else s

end Sys2Proof.Machine
end

