-- ==== Sys2Proof/Machine/TimeCommands.lean ====
section
/-! DEFINITION. The meanings of the commands of the Time Base and the Calendar Unit (chapters 1 and 2), and the two forms every meaning has: an outcome that goes on, and an event between eighth boundaries. -/

namespace Sys2Proof.Machine

/-- What a step of the part answers. -/
abbrev Result := Host.Outcome State Fault Refusal

/-- The part goes on, its retained block kept current (R163). -/
def State.goesOn (s : State) : Result := .next s.keep

/-- An event that comes between eighth boundaries: the instant of the boundary before it is left, its select
requests made and its scan begun (R150, R151). -/
def State.between (s : State) : State := s.leaveInstant.onTime fun r => { r with atBoundary := false }

/-- EIGHTH_END (R1). -/
def execEighthEnd (inp : BoundaryInput) (s : State) : Result := (s.eighthEnd inp).goesOn

/-- STANDARD_SECOND_BOUNDARY (R2). -/
def execStandardSecondBoundary (s : State) : Result := s.secondBoundary.goesOn

/-- LOCKED_PERIOD_END (R4). -/
def execLockedPeriodEnd (s : State) : Result := s.lockedEnd.goesOn

/-- HOLDOVER_PERIOD_END (R4). -/
def execHoldoverPeriodEnd (s : State) : Result := s.holdoverEnd.goesOn

/-- TELEGRAM_CHARACTER (R8). -/
def execTelegramCharacter (ch : RxChar) (waits : Bool) (s : State) : Result := (s.between.receive ch waits).goesOn

/-- TELEGRAM_TIMEOUT (R9). -/
def execTelegramTimeout (s : State) : Result := s.telegramTimeout.goesOn

/-- TIME_SET (R14). -/
def execTimeSet (cell : CellId) (tag year : Word) (month day hour minute second force : Byte) (s : State) : Result :=
  (s.postAndTake cell .timeSet tag (timeSetParams year month day hour minute second force)).goesOn

/-- DAY_OVERRIDE_SET (R27): action SET is 0. -/
def execDayOverrideSet (cell : CellId) (tag year : Word) (month day dayType : Byte) (s : State) : Result :=
  (s.postAndTake cell .dayOverride tag (dayOverrideParams 0 dayType year month day)).goesOn

/-- DAY_OVERRIDE_CLEAR (R28): action CLEAR is 1. -/
def execDayOverrideClear (cell : CellId) (tag year : Word) (month day : Byte) (s : State) : Result :=
  (s.postAndTake cell .dayOverride tag (dayOverrideParams 1 0 year month day)).goesOn

end Sys2Proof.Machine
end

