-- ==== Sys2Proof/Machine/DrillCommands.lean ====
section
/-! DEFINITION. The meanings of the commands of the Drill and Alarm Controller (chapter 7). -/

namespace Sys2Proof.Machine

/-- FIRE_CONTACT_CLOSURE (R110). -/
def execFireContactClosure (building : BuildingId) (s : State) : Result := (s.contactCloses building).goesOn

/-- FIRE_CONTACT_OPENING (R105). -/
def execFireContactOpening (building : BuildingId) (s : State) : Result := (s.contactOpens building).goesOn

/-- MUSTER_PRESS (R118). -/
def execMusterPress (building : BuildingId) (s : State) : Result := (s.musterPresses building).goesOn

/-- MUSTER_RELEASE (R106). -/
def execMusterRelease (building : BuildingId) (s : State) : Result := (s.musterReleases building).goesOn

/-- HUSH (R113). -/
def execHush (cell : CellId) (tag : Word) (mask : Byte) (s : State) : Result :=
  (s.postAndTake cell .hush tag [mask]).goesOn

/-- ALL_CLEAR (R114). -/
def execAllClear (cell : CellId) (tag : Word) (mask : Byte) (s : State) : Result :=
  (s.postAndTake cell .allClear tag [mask]).goesOn

/-- DRILL_START (R116). -/
def execDrillStart (cell : CellId) (tag : Word) (mask profile : Byte) (s : State) : Result :=
  (s.postAndTake cell .drillStart tag [mask, profile]).goesOn

/-- PREALERT_TIMER_EXPIRY (R117). -/
def execPrealertTimerExpiry (building : BuildingId) (s : State) : Result := (s.prealertExpire building).goesOn

/-- LIMIT_TIMER_EXPIRY (R119). -/
def execLimitTimerExpiry (building : BuildingId) (s : State) : Result := (s.limitExpire building).goesOn

/-- AUTO_TIMER_EXPIRY (R120). -/
def execAutoTimerExpiry (building : BuildingId) (s : State) : Result := (s.autoExpire building).goesOn

/-- DRILL_ABORT (R121). -/
def execDrillAbort (cell : CellId) (tag : Word) (mask : Byte) (s : State) : Result :=
  (s.postAndTake cell .drillAbort tag [mask]).goesOn

/-- LOG_COPY (R124). -/
def execLogCopy (cell : CellId) (tag offset : Word) (s : State) : Result :=
  (s.postAndTake cell .logCopy tag (wordBytes offset)).goesOn

/-- LOG_COPY_WRITE (R124). -/
def execLogCopyWrite (s : State) : Result := s.logCopyWrite.goesOn

end Sys2Proof.Machine
end

