-- ==== Sys2Proof/Machine/HostCommands.lean ====
section
/-! DEFINITION. The meanings of the commands of the Request Handler and Report Writer (chapter 11). -/

namespace Sys2Proof.Machine

/-- SWEEP_WRITE (R172, R185): the value written has no effect. -/
def execSweepWrite (_value : Word) (host : List MemWrite) (asks : List SweepAsks) (s : State) : Result :=
  ((s.between.hostWrites host).askSweep asks).goesOn

/-- PAGE_AGE_CLOSE (R179). -/
def execPageAgeClose (s : State) : Result := s.pageAgeClose.goesOn

/-- NOTICE_WRITE (R184). -/
def execNoticeWrite (value : Word) (s : State) : Result :=
  if s.busServed then .next (s.onRh (ReqHandler.clearNotices value)) else .next s

/-- NOTICE_ENABLE_WRITE (R184). -/
def execNoticeEnableWrite (value : Word) (s : State) : Result :=
  if s.busServed then .next (s.onRh (ReqHandler.enableNotices value)) else .next s

/-- REGISTER_WRITE_OTHER (R185, 12.2): the write is dropped. -/
def execRegisterWriteOther (_address : BitVec 14) (_value : Word) (s : State) : Result := .next s

end Sys2Proof.Machine
end

