-- ==== Sys2Proof/Machine/LineCommands.lean ====
section
/-! DEFINITION. The meanings of the commands of the Clock Line Driver and the Supervision Scanner (chapters 8 and 9). -/

namespace Sys2Proof.Machine

/-- IMPULSE_SELECT_REQUEST (R130). -/
def execImpulseSelectRequest (line : LineId) (s : State) : Result := (s.askSelect line).goesOn

/-- IMPULSE_END (R131). -/
def execImpulseEnd (line : LineId) (s : State) : Result := (s.impulseEnd line).goesOn

/-- FAST_IMPULSE (R137). -/
def execFastImpulse (line : LineId) (s : State) : Result := (s.fastImpulse line).goesOn

/-- PROBE_TIMER_EXPIRY (R140). -/
def execProbeTimerExpiry (line : LineId) (s : State) : Result := (s.probeTimerExpire line).goesOn

/-- CODED_FRAME_END (R141). -/
def execCodedFrameEnd (line : LineId) (s : State) : Result := (s.between.frameEnd line).goesOn

/-- LINE_SET_DISPLAY (R142). -/
def execLineSetDisplay (cell : CellId) (tag : Word) (line polarity : Byte) (position : Word) (s : State) : Result :=
  (s.postAndTake cell .lineSetDisplay tag (setDisplayParams line polarity position)).goesOn

/-- LINE_CONTROL_STOP (R143). -/
def execLineControlStop (cell : CellId) (tag : Word) (line : Byte) (s : State) : Result :=
  (s.postAndTake cell .lineControl tag [line, BitVec.ofNat 8 actionStop]).goesOn

/-- LINE_CONTROL_RUN (R144). -/
def execLineControlRun (cell : CellId) (tag : Word) (line : Byte) (s : State) : Result :=
  (s.postAndTake cell .lineControl tag [line, BitVec.ofNat 8 actionRun]).goesOn

/-- LINE_CONTROL_PROBE (R144). -/
def execLineControlProbe (cell : CellId) (tag : Word) (line : Byte) (s : State) : Result :=
  (s.postAndTake cell .lineControl tag [line, BitVec.ofNat 8 actionProbe]).goesOn

/-- A SCAN conversion is in progress. -/
def State.scanning (s : State) : Bool :=
  match s.scan.converter with
  | some c => c.kind == .scan
  | none => false

/-- CONVERSION_END (R152): a SCAN reading can change zones and end sessions, a SELECT reading cannot. -/
def execConversionEnd (reading : BitVec 10) (s : State) : Result :=
  if s.up then
    let t := s.between.endConversion reading.toNat
    (if s.between.scanning then t.whole else t).goesOn
  else s.goesOn

end Sys2Proof.Machine
end

