-- ==== Sys2Proof/Machine/PowerCommands.lean ====
section
/-! DEFINITION. The meanings of the commands of the Power Monitor and Retained Store (chapter 10). -/

namespace Sys2Proof.Machine

/-- ZERO_CROSSING (R158). -/
def execZeroCrossing (s : State) : Result :=
  if s.power.supplied then .next (s.between.onPower PowerMon.cross) else .next s

/-- FREQUENCY_WINDOW_END (R158). -/
def execFrequencyWindowEnd (s : State) : Result := s.windowEnd.goesOn

/-- SUPPLY_APPLIED (R164). -/
def execSupplyApplied (pins : Pins) (s : State) : Result := (s.applySupply pins).goesOn

/-- RESET_ASSERT (R164). -/
def execResetAssert (s : State) : Result := s.between.assertReset.goesOn

/-- RESET_RELEASE (R164). -/
def execResetRelease (pins : Pins) (s : State) : Result := (s.between.releaseReset pins).goesOn

/-- RUNNING_ENTRY (R165). -/
def execRunningEntry (s : State) : Result := s.enterRunning.goesOn

/-- LOAD (R167). -/
def execLoad (cell : CellId) (tag : Word) (kind : Byte) (offset length : Word) (s : State) : Result :=
  (s.postAndTake cell .load tag (loadParams kind offset length)).goesOn

/-- LOAD_COPY_END (R168). -/
def execLoadCopyEnd (s : State) : Result := s.loadCopyEnd.goesOn

/-- SAVE (R169). -/
def execSave (cell : CellId) (tag : Word) (s : State) : Result := (s.postAndTake cell .save tag []).goesOn

/-- SAVE_NOTHING_COMPLETE (R169). -/
def execSaveNothingComplete (s : State) : Result := s.saveNothingDone.goesOn

/-- SAVE_PAGE_WRITE (R169). -/
def execSavePageWrite (result : PageResult) (s : State) : Result := (s.between.savePageWrite result).goesOn

/-- SUPPLY_FAILURE (R163). -/
def execSupplyFailure (torn : Word) (s : State) : Result := .next (s.failSupply torn)

end Sys2Proof.Machine
end

