-- ==== Sys2Proof/Machine/ZoneCommands.lean ====
section
/-! DEFINITION. The meanings of the commands of the Zone Router and the Tone Bank (chapters 4, 5 and 6). -/

namespace Sys2Proof.Machine

/-- ADMISSION_SET (R61). -/
def execAdmissionSet (cell : CellId) (tag : Word) (target : TargetParam) (action : Byte) (minutes : Word)
    (s : State) : Result :=
  (s.postAndTake cell .admissionSet tag (admissionParams target action minutes)).goesOn

/-- ADMISSION_RELEASE (R62): the action RELEASE is 4. -/
def execAdmissionRelease (cell : CellId) (tag : Word) (target : TargetParam) (s : State) : Result :=
  (s.postAndTake cell .admissionSet tag (admissionParams target (BitVec.ofNat 8 releaseCode) 0)).goesOn

/-- OVERRIDE_EXPIRY (R63). -/
def execOverrideExpiry (zone : ZoneId) (s : State) : Result := (s.overrideExpiry zone).goesOn

/-- DEFER_LIMIT_EXPIRY (R77). -/
def execDeferLimitExpiry (sess : SessId) (s : State) : Result := (s.deferExpire sess).goesOn

/-- SESSION_DURATION_END (R78). -/
def execSessionDurationEnd (sess : SessId) (s : State) : Result := (s.durationEnd sess).goesOn

/-- CROSSPOINT_FRAME (R79). -/
def execCrosspointFrame (s : State) : Result := s.crosspoint.goesOn

/-- PLAYING_RISE (R81). -/
def execPlayingRise (player : PlayerId) (s : State) : Result := (s.playingRise player).goesOn

/-- PLAYING_FALL (R81). -/
def execPlayingFall (player : PlayerId) (s : State) : Result := (s.playingFall player).goesOn

/-- CUE_TIMEOUT (R81). -/
def execCueTimeout (player : PlayerId) (s : State) : Result := (s.cueTimeout player).goesOn

/-- PAUSE_ABANDON (R82). -/
def execPauseAbandon (sess : SessId) (s : State) : Result := (s.pauseAbandon sess).goesOn

/-- PTT_PRESS (R83). -/
def execPttPress (console : ConsoleId) (s : State) : Result := (s.pttPress console).goesOn

/-- PTT_RELEASE (R84). -/
def execPttRelease (console : ConsoleId) (s : State) : Result := (s.pttRelease console).goesOn

/-- EMERGENCY_KEY_CHANGE (R83). -/
def execEmergencyKeyChange (console : ConsoleId) (s : State) : Result := (s.emergencyChange console).goesOn

/-- CONSOLE_SET (R85). -/
def execConsoleSet (cell : CellId) (tag : Word) (console group ceiling : Byte) (s : State) : Result :=
  (s.postAndTake cell .consoleSet tag [console, group, ceiling]).goesOn

/-- ANNOUNCE (R86, R87). -/
def execAnnounce (cell : CellId) (tag : Word) (cls source which message repeats : Byte) (duration deferLimit : Word)
    (target : TargetParam) (s : State) : Result :=
  (s.postAndTake cell .announce tag
    (announceParams cls source which message repeats duration deferLimit target)).goesOn

/-- CANCEL_BY_NUMBER (R88): the mode BY_NUMBER is 0. -/
def execCancelByNumber (cell : CellId) (tag : Word) (number : Byte) (s : State) : Result :=
  (s.postAndTake cell .cancel tag (cancelParams 0 number 0)).goesOn

/-- CANCEL_BY_TAG (R88): the mode BY_TAG is 1. -/
def execCancelByTag (cell : CellId) (tag wanted : Word) (s : State) : Result :=
  (s.postAndTake cell .cancel tag (cancelParams 1 0 wanted)).goesOn

/-- PATTERN_PHASE_END (R95). -/
def execPatternPhaseEnd (gen : GenId) (s : State) : Result := (s.phaseEnd gen).goesOn

/-- WAIT_LIST_GIVE_UP (R102). -/
def execWaitListGiveUp (sess : SessId) (s : State) : Result := (s.giveUp sess).goesOn

end Sys2Proof.Machine
end

