-- ==== Sys2Proof/Machine/Dispatch.lean ====
section
/-! DEFINITION. The meaning of each command: one arm for each constructor of Instr. -/

namespace Sys2Proof.Machine

def exec (i : Instr) (s : State) : Host.Outcome State Fault Refusal :=
  match i with
  | .eighthEnd inp => Sys2Proof.Machine.execEighthEnd inp s
  | .standardSecondBoundary => Sys2Proof.Machine.execStandardSecondBoundary s
  | .lockedPeriodEnd => Sys2Proof.Machine.execLockedPeriodEnd s
  | .holdoverPeriodEnd => Sys2Proof.Machine.execHoldoverPeriodEnd s
  | .telegramCharacter ch waits => Sys2Proof.Machine.execTelegramCharacter ch waits s
  | .telegramTimeout => Sys2Proof.Machine.execTelegramTimeout s
  | .timeSet cell tag year month day hour minute second force => Sys2Proof.Machine.execTimeSet cell tag year month day hour minute second force s
  | .dayOverrideSet cell tag year month day dayType => Sys2Proof.Machine.execDayOverrideSet cell tag year month day dayType s
  | .dayOverrideClear cell tag year month day => Sys2Proof.Machine.execDayOverrideClear cell tag year month day s
  | .admissionSet cell tag target action minutes => Sys2Proof.Machine.execAdmissionSet cell tag target action minutes s
  | .admissionRelease cell tag target => Sys2Proof.Machine.execAdmissionRelease cell tag target s
  | .overrideExpiry zone => Sys2Proof.Machine.execOverrideExpiry zone s
  | .deferLimitExpiry sess => Sys2Proof.Machine.execDeferLimitExpiry sess s
  | .sessionDurationEnd sess => Sys2Proof.Machine.execSessionDurationEnd sess s
  | .crosspointFrame => Sys2Proof.Machine.execCrosspointFrame s
  | .playingRise player => Sys2Proof.Machine.execPlayingRise player s
  | .playingFall player => Sys2Proof.Machine.execPlayingFall player s
  | .cueTimeout player => Sys2Proof.Machine.execCueTimeout player s
  | .pauseAbandon sess => Sys2Proof.Machine.execPauseAbandon sess s
  | .pttPress console => Sys2Proof.Machine.execPttPress console s
  | .pttRelease console => Sys2Proof.Machine.execPttRelease console s
  | .emergencyKeyChange console => Sys2Proof.Machine.execEmergencyKeyChange console s
  | .consoleSet cell tag console group ceiling => Sys2Proof.Machine.execConsoleSet cell tag console group ceiling s
  | .announce cell tag cls source which message repeats duration deferLimit target => Sys2Proof.Machine.execAnnounce cell tag cls source which message repeats duration deferLimit target s
  | .cancelByNumber cell tag number => Sys2Proof.Machine.execCancelByNumber cell tag number s
  | .cancelByTag cell tag wanted => Sys2Proof.Machine.execCancelByTag cell tag wanted s
  | .patternPhaseEnd gen => Sys2Proof.Machine.execPatternPhaseEnd gen s
  | .waitListGiveUp sess => Sys2Proof.Machine.execWaitListGiveUp sess s
  | .fireContactClosure building => Sys2Proof.Machine.execFireContactClosure building s
  | .fireContactOpening building => Sys2Proof.Machine.execFireContactOpening building s
  | .musterPress building => Sys2Proof.Machine.execMusterPress building s
  | .musterRelease building => Sys2Proof.Machine.execMusterRelease building s
  | .hush cell tag mask => Sys2Proof.Machine.execHush cell tag mask s
  | .allClear cell tag mask => Sys2Proof.Machine.execAllClear cell tag mask s
  | .drillStart cell tag mask profile => Sys2Proof.Machine.execDrillStart cell tag mask profile s
  | .prealertTimerExpiry building => Sys2Proof.Machine.execPrealertTimerExpiry building s
  | .limitTimerExpiry building => Sys2Proof.Machine.execLimitTimerExpiry building s
  | .autoTimerExpiry building => Sys2Proof.Machine.execAutoTimerExpiry building s
  | .drillAbort cell tag mask => Sys2Proof.Machine.execDrillAbort cell tag mask s
  | .logCopy cell tag offset => Sys2Proof.Machine.execLogCopy cell tag offset s
  | .logCopyWrite => Sys2Proof.Machine.execLogCopyWrite s
  | .impulseSelectRequest line => Sys2Proof.Machine.execImpulseSelectRequest line s
  | .impulseEnd line => Sys2Proof.Machine.execImpulseEnd line s
  | .fastImpulse line => Sys2Proof.Machine.execFastImpulse line s
  | .probeTimerExpiry line => Sys2Proof.Machine.execProbeTimerExpiry line s
  | .codedFrameEnd line => Sys2Proof.Machine.execCodedFrameEnd line s
  | .lineSetDisplay cell tag line polarity position => Sys2Proof.Machine.execLineSetDisplay cell tag line polarity position s
  | .lineControlStop cell tag line => Sys2Proof.Machine.execLineControlStop cell tag line s
  | .lineControlRun cell tag line => Sys2Proof.Machine.execLineControlRun cell tag line s
  | .lineControlProbe cell tag line => Sys2Proof.Machine.execLineControlProbe cell tag line s
  | .conversionEnd reading => Sys2Proof.Machine.execConversionEnd reading s
  | .zeroCrossing => Sys2Proof.Machine.execZeroCrossing s
  | .frequencyWindowEnd => Sys2Proof.Machine.execFrequencyWindowEnd s
  | .supplyApplied pins => Sys2Proof.Machine.execSupplyApplied pins s
  | .resetAssert => Sys2Proof.Machine.execResetAssert s
  | .resetRelease pins => Sys2Proof.Machine.execResetRelease pins s
  | .runningEntry => Sys2Proof.Machine.execRunningEntry s
  | .load cell tag kind offset length => Sys2Proof.Machine.execLoad cell tag kind offset length s
  | .loadCopyEnd => Sys2Proof.Machine.execLoadCopyEnd s
  | .save cell tag => Sys2Proof.Machine.execSave cell tag s
  | .saveNothingComplete => Sys2Proof.Machine.execSaveNothingComplete s
  | .savePageWrite result => Sys2Proof.Machine.execSavePageWrite result s
  | .sweepWrite value host asks => Sys2Proof.Machine.execSweepWrite value host asks s
  | .pageAgeClose => Sys2Proof.Machine.execPageAgeClose s
  | .noticeWrite value => Sys2Proof.Machine.execNoticeWrite value s
  | .noticeEnableWrite value => Sys2Proof.Machine.execNoticeEnableWrite value s
  | .registerWriteOther address value => Sys2Proof.Machine.execRegisterWriteOther address value s
  | .supplyFailure torn => Sys2Proof.Machine.execSupplyFailure torn s

end Sys2Proof.Machine
end

