-- ==== Sys2Proof/Safety.lean ====
section
/-! DEFINITION. What a safe run is: every step answers a next state, and the invariants that the spec gives the state as a whole hold. -/

namespace Sys2Proof.Machine

/-- The retained block is the running state's while the part is RUNNING with supply (R163): every field as it
stands, and the validity word the sum of the others. -/
def State.blockCurrent (s : State) : Prop :=
  s.power.supplied = true → s.power.part = .running → s.power.retained = Retained.of s.retFields

/-- The two memories are in their one canonical form. -/
def State.memoriesWf (s : State) : Prop := Mem.wf s.mem ∧ Mem.wf s.power.eeprom

/-- Every zone's effective mode is the one its override, its quiet marks and its base mode give (R59). -/
def State.modesRight (s : State) : Prop := ∀ z : ZoneId, (s.zone z).effective = (s.zone z).compute

/-- At most K grants stand (R136). -/
def LineDrv.withinBudget (d : LineDrv) : Prop := d.grants.length ≤ d.budget

/-- The holding queue has at most 32 records (R181), and the page that is FILLING fewer than 31 (R179). -/
def ReqHandler.fits (r : ReqHandler) : Prop :=
  r.queue.length ≤ Config.queueLimit ∧ ∀ c, r.current = some c → c.count < Config.pageSlots

/-- The bytes of common memory that the host writes and the part writes only to answer: the request cells and the
staging area (R171). -/
def hostArea (a : Nat) : Prop := (0x100 ≤ a ∧ a < 0x700) ∨ 0x2000 ≤ a

/-- The catch-up arbiter's lists are right (R136): at most K grants, no line twice in a list, the lines that hold a
grant being those in ADVANCING and the lines that wait those in ADVANCE_WAIT; and none waits while a grant is free. -/
structure LineDrv.arbiterRight (d : LineDrv) : Prop where
  budget  : d.withinBudget
  once    : d.grants.Nodup ∧ d.waiting.Nodup
  granted : ∀ l : LineId, l ∈ d.grants ↔ (d.lines.at l).state = .advancing
  waits   : ∀ l : LineId, l ∈ d.waiting ↔ (d.lines.at l).state = .advanceWait
  full    : d.waiting ≠ [] → d.grants.length = d.budget

/-- A date override list as 2.4 has it: ascending, no date twice, at most 16 records. -/
def overridesRight (os : List DayOverride) : Prop := os.Pairwise (fun a b => a.day < b.day) ∧ os.length ≤ 16

/-- The Calendar Unit's list is such a list, and so is the one that the retained block holds. -/
def State.overridesRight (s : State) : Prop :=
  Machine.overridesRight s.cal.overrides ∧ Machine.overridesRight s.power.retained.fields.overrides

/-- Every zone's scheduled-quiet mark is set while some group's set holds the zone (R44), and its day-quiet mark while
the day-quiet set of today holds it (R22). -/
def State.quietMarksRight (s : State) : Prop := ∀ z : ZoneId,
  (s.zone z).schedQuiet = Mask.has s.bell.quietZones z.val ∧ (s.zone z).dayQuiet = Mask.has s.dayQuietSet z.val

/-- Each requested zone of a session stands in exactly one of its sets, the refused zones by their one reason, and no
other zone stands in any (R69). -/
def Session.partitioned (x : Session) : Prop := ∀ z : ZoneId,
  (([x.connected, x.waiting, x.deferred, x.held, x.lost, x.refNotAdmitted, x.refFaulted, x.refSuppressed] :
    List ZoneSet).filter fun m => Mask.has m z.val).length = if Mask.has x.requested z.val then 1 else 0

/-- The zone records and the sessions agree (R69, R72, R73): a zone's occupant is the session that has the zone
connected, and its held slot names the session that has it held elsewhere. -/
def State.zonesAgree (s : State) : Prop :=
  (∀ n x, s.sess n = some x → x.partitioned) ∧
  ∀ (z : ZoneId) (n : SessId),
    ((s.zone z).occupant = some n ↔ ∃ x, s.sess n = some x ∧ Mask.has x.connected z.val = true) ∧
    ((s.zone z).held = some n ↔ ∃ x, s.sess n = some x ∧ Mask.has x.held z.val = true)

/-- The generators, the wait list and the buildings' signals name sessions as the rules have them: a generator's users are
sessions of its class and pattern, each at one generator (R99, R100); those in the wait list are tone sessions without
one, each once (R102); and but in RETAINED, where no session is left (R125), a building's signal is its own session, of class
DRILL or above (R108, 7.2). -/
structure State.soundsRight (s : State) : Prop where
  users   : ∀ (g : GenId) (n : SessId), n ∈ (s.gen g).users → ∃ x q, s.sess n = some x ∧ x.source = .tone q ∧
    (s.gen g).cls = some x.cls ∧ (s.gen g).pattern = some q
  once    : ∀ g : GenId, (s.gen g).users.Nodup ∧ ∀ (h : GenId) (n : SessId), n ∈ (s.gen g).users → n ∈ (s.gen h).users → g = h
  waits   : s.tone.waitList.Nodup ∧ ∀ n ∈ s.tone.waitList,
    (∃ x q, s.sess n = some x ∧ x.source = .tone q) ∧ ∀ g : GenId, n ∉ (s.gen g).users
  signals : s.power.power ≠ .retained → ∀ (b : BuildingId) (n : SessId), (s.building b).signal = some n →
    ∃ x k, s.sess n = some x ∧ x.origin = .building b k ∧ x.cls.num ≤ 2

/-- What holds of the part before and after every step. -/
structure State.Inv (s : State) : Prop where
  block     : s.blockCurrent
  memories  : s.memoriesWf
  modes     : s.modesRight
  arbiter   : s.line.arbiterRight
  pages     : s.rh.fits
  overrides : s.overridesRight
  marks     : s.quietMarksRight
  zones     : s.zonesAgree
  sounds    : s.soundsRight

/-- What handing over a report can do: notices are only gained, and the report pages and the holding queue keep
their bounds; cells, enables and the sweep count stand, memory keeps its canonical form, and its request cells and
staging area are not written. -/
structure Pages (s t : State) : Prop where
  cells   : t.rh.cells = s.rh.cells
  enable  : t.rh.noticeEnable = s.rh.noticeEnable
  sweeps  : t.rh.sweepCount = s.rh.sweepCount
  writer  : t.rh.writerOn = s.rh.writerOn
  notices : ∀ i, Mask.has s.rh.notice i = true → Mask.has t.rh.notice i = true
  wf      : Mem.wf s.mem → Mem.wf t.mem
  fits    : s.rh.fits → t.rh.fits
  areas   : s.rh.fits → ∀ a, hostArea a → t.mem.read a = s.mem.read a

/-- What a session keeps from its creation to its end (R69): its record with its state and its zone sets put aside. -/
def Session.ident (x : Session) : Session :=
  { x with state := .queued, activeAt := none, pausedAt := none, connected := 0, waiting := 0, deferred := 0
           held := 0, lost := 0, ever := 0 }

/-- From a session table and creation sequence to another: every session of the second either stands in the first
with the same identity, or was created since (R69). -/
structure SessionsKept (k : Nat) (old : Tab (Option Session) 16) (l : Nat) (new : Tab (Option Session) 16) :
    Prop where
  seq  : k ≤ l
  kept : ∀ n y, new.at n = some y → (∃ x, old.at n = some x ∧ y.ident = x.ident) ∨ k ≤ y.seq

/-- A building record, its signal and wanted mark put aside. -/
def Building.core (r : Building) : Building := { r with signal := none, wanted := false }

/-- What sessions, zones, generators, bells and buildings never change: the Time Base, the Calendar Unit, the lines, the
Scanner, power (the retained block apart), the pins, the queue of commands, and every table and setting. -/
structure SoundSide (s t : State) : Prop where
  time     : t.time = s.time
  cal      : t.cal = s.cal
  line     : t.line = s.line
  scan     : t.scan = s.scan
  power    : t.power = { s.power with retained := t.power.retained }
  pins     : t.pins = s.pins
  pending  : t.pending = s.pending
  programs : t.bell.programs = s.bell.programs
  patterns : t.tone.patterns = s.tone.patterns
  profiles : t.drill.profiles = s.drill.profiles
  maps     : t.router.maps = s.router.maps
  layout   : t.router.monitor = s.router.monitor ∧ t.router.spread = s.router.spread
  groups   : t.router.groups = s.router.groups
  zones    : ∀ z, (t.zone z).building = (s.zone z).building ∧ (t.zone z).base = (s.zone z).base ∧
    (t.zone z).override = (s.zone z).override ∧ (t.zone z).fault = (s.zone z).fault
  consoles : ∀ c, t.console c = s.console c ∨ t.console c = { s.console c with session := none }
  sessions : SessionsKept s.router.seq s.router.sessions t.router.seq t.router.sessions

/-- No building is standing down. -/
def State.noneDown (s : State) : Prop := ∀ b, (s.building b).state ≠ .standingDown

/-- A stand-down has ended, and left the building's alerting sources and inputs as they were (R122). -/
def Building.stoodDown (r q : Building) : Prop :=
  (q.state = .quiet ∨ q.state = .alerted) ∧ q.sources = r.sources ∧ q.contact = r.contact ∧ q.muster = r.muster

/-- What sessions and stand-downs do to buildings (R108, R122): a building that is not standing down keeps its record,
its signal apart; one that is keeps it too, or its stand-down ends; the log serial stands; and where none is standing
down the log, the Bell Scheduler and the building view stand. -/
structure DrillSide (s t : State) : Prop where
  cores  : ∀ b, (s.building b).state ≠ .standingDown → (t.building b).core = (s.building b).core
  ends   : ∀ b, (s.building b).state = .standingDown →
    (t.building b).core = (s.building b).core ∨ (s.building b).stoodDown (t.building b)
  serial : t.drill.serial = s.drill.serial
  still  : s.noneDown → t.drill.log = s.drill.log ∧ t.bell = s.bell ∧ t.router.view = s.router.view

/-- A stand-down of building b, its record before it `r`, is over in t (R122): its profile, drill outcome and open record
are gone, and the building is ALERTED or QUIET by its alerting sources. -/
def StandDownOver (s t : State) (b : BuildingId) (r : Building) : Prop :=
  (t.building b).core = { r with
    state := if r.sources = 0 then .quiet else .alerted, timer := none, profile := none, outcome := none
    openRec := if (s.openRecordOf b).isSome then none else r.openRec }

/-- A stand-down of building b, its record before it `r`, in t (R122): it stands, or it is over. -/
def StandsDown (s t : State) (b : BuildingId) (r : Building) : Prop :=
  (t.building b).core = { r with state := .standingDown, timer := none } ∨ StandDownOver s t b r

/-- An all-clear of building b finds a zone to sound in (R71 to R74): one of the building's that admits it, has no fault
and stands in no other session of class DRILL or above; and nothing else is pending that could end it. -/
def State.clearSounds (s : State) (b : BuildingId) : Prop :=
  s.zonesAgree ∧ s.soundsRight ∧ s.noneDown ∧ (∀ c, (s.building c).wanted = false) ∧ s.work.touched = [] ∧
  ∃ z : ZoneId, Mask.has (s.router.maps.at b) z.val = true ∧ (s.zone z).effective ≠ .off ∧ (s.zone z).fault = false ∧
    ∀ n x, s.sess n = some x → (s.building b).signal ≠ some n → x.cls.num ≤ 2 →
      Mask.has (x.connected ||| x.waiting ||| x.deferred ||| x.held) z.val = false

/-- A signal of class c of building b finds a record and a zone (R70 to R74): one of the building's zones admits it, has no
fault and stands in no other session of class c or above; and, for a signal that another could displace, nothing else is
pending that could make one. -/
def State.signalFinds (s : State) (b : BuildingId) (c : Cls) : Prop :=
  s.zonesAgree ∧ s.soundsRight ∧ (c ≠ .evacuate → s.noneDown ∧ ∀ e, (s.building e).wanted = false) ∧
  s.work.touched = [] ∧ ((s.building b).signal ≠ none ∨ ∃ n, s.sess n = none) ∧
  ∃ z : ZoneId, Mask.has (s.router.maps.at b) z.val = true ∧ (s.zone z).effective ≠ .off ∧ (s.zone z).fault = false ∧
    ∀ n x, s.sess n = some x → (s.building b).signal ≠ some n → x.cls.num ≤ c.num →
      Mask.has (x.connected ||| x.waiting ||| x.deferred ||| x.held) z.val = false

/-- Building b's signal is a session of its own, of a kind, class, pattern and duration, that asks for the building's zones
(R93, R108). -/
def State.signalIs (t : State) (b : BuildingId) (k : SignalKind) (c : Cls) (p : PatternId) (d : Option Nat) : Prop :=
  (t.building b).wanted = false ∧ ∃ n x, (t.building b).signal = some n ∧ t.sess n = some x ∧ x.cls = c ∧
    x.origin = .building b k ∧ x.source = .tone p ∧ x.requested = t.router.maps.at b ∧ x.duration = d

/-- Building b has no signal and wants none (R107 step 1, 7.2). -/
def State.signalNone (t : State) (b : BuildingId) : Prop :=
  (t.building b).signal = none ∧ (t.building b).wanted = false

/-- The ALARM notice stands, where the Report Writer takes records (R107 step 5, R184). -/
def AlarmNoticed (s t : State) : Prop := s.rh.writerOn = true → Mask.has t.rh.notice Notice.alarm.bit = true

/-- An all-clear of building b finds no zone to sound in (R71 to R74): each of the building's is OFF, at fault, or occupied
by another session of class DRILL or above. A record is there for it to be made and to end in, and nothing else is
pending. -/
def State.clearSilent (s : State) (b : BuildingId) : Prop :=
  s.zonesAgree ∧ s.soundsRight ∧ s.noneDown ∧ (∀ c, (s.building c).wanted = false) ∧ s.work.touched = [] ∧
  s.work.standDowns = [] ∧ ((s.building b).signal ≠ none ∨ ∃ n, s.sess n = none) ∧
  ∀ z : ZoneId, Mask.has (s.router.maps.at b) z.val = true → (s.zone z).effective = .off ∨ (s.zone z).fault = true ∨
    ∃ n x, (s.zone z).occupant = some n ∧ (s.building b).signal ≠ some n ∧ s.sess n = some x ∧ x.cls.num ≤ 2

/-- The log of s once the stand-downs that are over in t are (R122, R123): the open record of each building that went
to STANDING_DOWN and is not in it closes at this instant, an ALARM record ALARM_CLEARED and a DRILL record with its
outcome. That a DRILL record without one, which no run comes to, closes COMPLETED is the model's choice (log entry 37). -/
def State.logStoodDown (s t : State) (went : BuildingId → Bool) (outcome : BuildingId → Option DrillOutcome) :
    List LogRec :=
  s.drill.log.map fun q =>
    match s.openRecordOf q.building with
    | some first =>
      if went q.building && q.outcome == .stillOpen && (t.building q.building).state != .standingDown then
        { q with
          endTime := some ⟨s.time.stdSec, s.time.eighth⟩
          outcome := if first.isAlarm then .alarmCleared else match outcome q.building with
            | some .timedOut => .timedOut
            | some .aborted => .aborted
            | _ => .completed }
      else q
    | none => q

/-- What an event that makes or ends sessions leaves alone. -/
structure Sounded (s t : State) : Prop where
  sound : SoundSide s t
  pages : Pages s t
  drill : DrillSide s t

/-- The session that record n held in s is in the table of t no longer: what the record holds was created since. -/
def Departed (n : SessId) (s t : State) : Prop := ∀ x, t.sess n = some x → s.router.seq ≤ x.seq

/-- Only the Time Base, reports and the retained block differ. -/
def TimeSide (s t : State) : Prop :=
  t = { s with time := t.time, rh := t.rh, mem := t.mem, power := { s.power with retained := t.power.retained } }

/-- Only the Request Handler, common memory and the retained block differ. -/
def HostSide (s t : State) : Prop :=
  t = { s with rh := t.rh, mem := t.mem, power := { s.power with retained := t.power.retained } }

/-- Only clock lines, the Scanner, reports and the retained block differ. -/
def LineSide (s t : State) : Prop :=
  t = { s with line := t.line, scan := t.scan, rh := t.rh, mem := t.mem,
               power := { s.power with retained := t.power.retained } }

/-- What the end of line l's impulse or frame in flight, with its verdict, does from s to t (R130, R131, R137, R140, R141,
R156): a delivered one takes the failure count to 0, and, where it is an impulse that the host did not overrule, advances
the display and toggles the polarity; a failed one counts, the channel takes its class, and the second in a row takes
the line to FAULT, out of the arbiter. A delivered probe ends FAULT, a failed one is repeated; an ADVANCING line without a
lag has caught up. Of the other lines only those that wait can be granted. -/
def VerdictActs (l : LineId) (imp : Impulse) (s t : State) : Prop :=
  let r := s.clock l
  let q := t.clock l
  let delivered : Bool := imp.result == none || imp.result == some .ok
  let moves : Bool := delivered && !imp.coded && !imp.hostSet
  let display := if moves = true then r.display.map fun d => (d + 1) % r.kind.period else r.display
  LineSide s t ∧ Pages s t ∧
  q.kind = r.kind ∧ q.q = r.q ∧ q.w = r.w ∧ q.stopped = r.stopped ∧ q.display = display ∧
  q.polarity = (if moves = true then (match r.polarity with | .a => .b | .b => .a) else r.polarity) ∧
  (delivered = true → q.failCount = 0 ∧ (t.channel (lineChannel l)).cls = .ok) ∧
  (delivered = false → q.failCount = (if r.state = .fault then min (r.failCount + 1) 2 else r.failCount + 1) ∧
    some (t.channel (lineChannel l)).cls = imp.result) ∧
  (delivered = false → r.state ≠ .fault → 1 ≤ r.failCount → q.state = .fault ∧ q.fastTimer = none ∧
    q.reeval = false ∧ q.probeTimer = some (s.time.elapsed + 480) ∧ l ∉ t.line.grants ∧ l ∉ t.line.waiting) ∧
  (r.state = .fault → delivered = false → q.state = .fault ∧ q.probeTimer = some (s.time.elapsed + 480)) ∧
  (r.state = .fault → delivered = true → q.probeTimer = none ∧ q.state.decides = true) ∧
  (r.state = .advancing → imp.coded = false → r.reeval = false → delivered = true → r.kind.impulses = true →
    display = some (s.lineTarget l) → q.state = .inStep ∧ q.fastTimer = none ∧ l ∉ t.line.grants) ∧
  ∀ m, m ≠ l → t.clock m = { s.clock m with state := (t.clock m).state, fastTimer := (t.clock m).fastTimer } ∧
    ((t.clock m).state = (s.clock m).state ∧ (t.clock m).fastTimer = (s.clock m).fastTimer ∨
      (t.clock m).state = .advancing ∧ m ∈ s.line.waiting)

/-- A request can be taken at cell i: every block runs, and the cell is not in flight (R173, R186). -/
def State.takes (s : State) (i : CellId) : Prop := s.up = true ∧ (s.rh.cells.at i).inFlight = false

/-- Cell i shows a request of kind k and tag answered with a code and a result area, and the CELL notice stands
(R175, R187); from s to t the cell's completion count has gone up by one, and no other byte of the request cells and
the staging area has changed. That the sweep count stands is the model's choice: a request command is posted and
taken, and ends no sweep of its own (log entry 13). -/
structure Answered (i : CellId) (k : ReqKind) (tag : Word) (a : Answer) (s t : State) : Prop where
  word   : t.mem.readWord (cellBase i) = BitVec.ofNat 16 (finalWord k.num a.code)
  tag    : t.mem.readWord (cellBase i + 2) = tag
  detail : t.mem.readWord (cellBase i + 4) = a.detail
  count  : t.mem.readWord (cellBase i + 6) = (s.rh.cells.at i).count + 1
  result : t.mem.readBytes (cellBase i + 48) 16 = fit 16 a.result
  cells  : t.rh.cells = s.rh.cells.put i ⟨false, (s.rh.cells.at i).count + 1⟩
  notice : Mask.has t.rh.notice Notice.cell.bit = true
  gained : ∀ b, Mask.has s.rh.notice b = true → Mask.has t.rh.notice b = true
  regs   : t.rh.noticeEnable = s.rh.noticeEnable ∧ t.rh.sweepCount = s.rh.sweepCount ∧ t.rh.writerOn = s.rh.writerOn
  others : s.rh.fits → ∀ a, hostArea a → (a < cellBase i ∨ cellBase i + 64 ≤ a) → t.mem.read a = s.mem.read a

/-- What a request on buildings is answered, from the outcome each named building gets (R109, 12.3): OK where one of
them is OK, or else the outcome of the lowest-numbered; with the six outcomes, 4 bits each, 15 for a building not
named. -/
def onBuildings (named : BuildingId → Bool) (outcome : BuildingId → Code) (more : List Byte) : Answer :=
  let list := (List.finRange 6).filter named
  { code := if list.any (fun b => outcome b == .ok) then .ok else (list.head?.map outcome).getD .badParam
    detail := 0
    result := leBytes 3 ((List.finRange 6).map fun b => (if named b then (outcome b).num else 15) * 16 ^ b.val).sum ++
      more }

/-- The tables of section kind k are those that a section's body gives, as a start takes them (R166 step 4, 12.6). -/
def State.holdsSection (t : State) (k : SectKind) (body : List Byte) : Prop :=
  match k with
  | .site => let d := siteData body
    (∀ z, t.zone z = ⟨(d.zones.at z).1, (d.zones.at z).2, false, false, none, (d.zones.at z).2, false, none, none⟩) ∧
    t.router.monitor = d.monitor ∧ t.router.spread = d.spread ∧
    ∀ a : Fin 16, (t.channel (ampChannel a)).openT = wordAt body (140 + 4 * a.val) ∧
      (t.channel (ampChannel a)).shortT = wordAt body (142 + 4 * a.val)
  | .groups => t.router.groups = groupsData body
  | .patterns => t.tone.patterns = patternsData body
  | .programs => t.bell.programs = programsData body
  | .calendar => let d := calendarData body
    t.cal.base = d.base ∧ t.cal.dayMap = d.dayMap ∧ t.cal.quietGroup = d.quiet ∧ t.cal.groups = d.groups ∧
    t.time.dst = d.dst
  | .lines => let d := linesData body
    t.line.budget = d.budget ∧ ∀ l : LineId,
      (⟨(t.clock l).kind, (t.clock l).q, (t.clock l).w⟩ : LineSetup) = d.setups.at l ∧
      (t.channel (lineChannel l)).openT = wordAt body (6 + 8 * l.val) ∧
      (t.channel (lineChannel l)).shortT = wordAt body (8 + 8 * l.val)
  | .drills => t.drill.profiles = drillsData body

/-- The tables of section kind k are its defaults, as a start takes them (R166). -/
def State.holdsDefaults (t : State) (k : SectKind) : Prop :=
  match k with
  | .site => (∀ z, t.zone z = ⟨0, .full, false, false, none, .full, false, none, none⟩) ∧
    (∀ b, t.router.monitor.at b = none ∧ t.router.spread.at b = 0) ∧
    ∀ a : Fin 16, (t.channel (ampChannel a)).openT = 64 ∧ (t.channel (ampChannel a)).shortT = 960
  | .groups => ∀ g, t.router.groups.at g = if g = 0 then BitVec.allOnes 64 else 0
  | .patterns => ∀ p, 4 ≤ p.val → t.tone.patterns.at p = []
  | .programs => ∀ p, t.bell.programs.at p = []
  | .calendar => (∀ d, t.cal.dayMap.at d = 0) ∧ (∀ q, t.cal.quietGroup.at q = none) ∧
    (∀ g, (t.cal.groups.at g).scope = 63 ∧ (t.cal.groups.at g).grace = 60 ∧ (t.cal.groups.at g).resume = false ∧
      ∀ q, (t.cal.groups.at g).progMap.at q = none) ∧ t.time.dst.offset = 0
  | .lines => t.line.budget = 2 ∧ ∀ l : LineId, (t.clock l).kind = .disabled ∧
      (t.channel (lineChannel l)).openT = 64 ∧ (t.channel (lineChannel l)).shortT = 960
  | .drills => ∀ m, m ≠ 0 → t.drill.profiles.at m = none

/-- A run that never stops: each of its steps answers a next state. -/
def safeFor : Nat → State → Prop
  | 0, _ => True
  | k + 1, s => ∃ t, step s = .next t ∧ safeFor k t

end Sys2Proof.Machine
end

