-- ==== Sys2Proof/WellFormed.lean ====
section
/-! DEFINITION. The checks on a command's operands that their types do not make already. -/

namespace Sys2Proof

/-- A page of the EEPROM holds at most 64 bytes (R169). -/
def PageResult.wf : PageResult → Bool
  | .ok => true
  | .noAck => true
  | .readsBack bytes => decide (bytes.length ≤ 64)

/-- A register word other than NOTICE, NOTICE_ENABLE and SWEEP: IDENT at 0x2000, or above 0x2003 (12.2). -/
def otherRegister (address : BitVec 14) : Bool :=
  address == 0x2000#14 || decide (0x2003#14 < address)

/-- A command is well-formed when its operands are ones the part's surroundings can give. -/
def Instr.wf : Instr → Bool
  | .savePageWrite r => r.wf
  | .registerWriteOther address _ => otherRegister address
  | .supplyFailure torn => torn != 0
  | _ => true

end Sys2Proof
end

