-- ==== Sys2Proof/Certificates/Slice0/Obligations.lean ====
section
/-! DEFINITION. The statements for the provers: what the commands do, what they leave alone, and what every step keeps. Each cites the rule of spec/ it formalises. -/

open Sys2Proof Sys2Proof.Machine

/-! ### The machine as a whole -/

/-- A step carries out the command at the front of the queue, with the queue's rest; with no command waiting it idles,
which is the model's choice (log entry 9). -/
def Obligations.StepRunsTheFrontCommand : Prop :=
  (∀ (c : Instr) (q : List Instr) (s : State), step { s with pending := c :: q } = exec c { s with pending := q }) ∧
  ∀ s : State, s.pending = [] → step s = .next s

/-- Every command, from every state, answers a next state, and the commands that wait stay as they are. The spec
names nothing that stops the part; that no command stops, one whose condition does not hold included, is the model's
choice (log entries 11 and 41), and the statement says nothing of any effect. -/
def Obligations.EveryCommandAnswersNext : Prop :=
  ∀ (c : Instr) (s : State), ∃ t, exec c s = .next t ∧ t.pending = s.pending

/-- The state right after a COLD start (R20, R33, R52, R68, R94, R104, R126, R148, R157, R186), block by block, without
a standing image, and that it meets every invariant the steps keep. That reset is a part in STARTING after its supply was
applied is the model's choice (log entry 1); that common memory is all 0 rests on the revision 0 (log entry 2) and on
header pages of 0 in STARTING (log entry 33). -/
def Obligations.ResetHoldsTheColdStartValues : Prop :=
  let s := State.reset
  s.Inv ∧
  (s.time.elapsed = 0 ∧ s.time.stdSec = 0 ∧ s.time.eighth = 0 ∧ s.time.quality = .unset ∧ s.time.qualityTimer = none ∧
    s.time.dst.offset = 0 ∧ s.time.dstInForce = false ∧ s.time.slewRem = 0 ∧ s.time.slewCount = 0 ∧
    s.time.assembly = none ∧ s.time.candidate = none ∧ s.time.disagree = false ∧
    s.time.counters = ⟨0, 0, 0, 0, 0, 0, 0, 0, 0, 0, 0⟩) ∧
  (s.cal.today = none ∧ s.cal.todayType = none ∧ s.cal.overrides = []) ∧
  (∀ g : SchedId, s.bell.groups.at g = ⟨false, none, -1, none, 0⟩ ∧ ∀ b : BuildingId, (s.bell.resume.at g).at b = none) ∧
  (∀ z : ZoneId, (s.zone z).effective = .full ∧ (s.zone z).override = none ∧ (s.zone z).occupant = none ∧
    (s.zone z).held = none ∧ s.router.latched.at z = none) ∧
  (∀ n : SessId, s.sess n = none) ∧ (∀ p : PlayerId, (s.player p).current = none ∧ (s.player p).queue = []) ∧
  (∀ c : ConsoleId, (s.console c).target = none ∧ (s.console c).alertCeiling = false ∧ (s.console c).session = none) ∧
  (s.tone.waitList = [] ∧ ∀ g : GenId, (s.gen g).users = [] ∧ (s.gen g).divider = none) ∧
  (s.drill.log = [] ∧ s.drill.serial = 0 ∧ ∀ b : BuildingId, (s.building b).state = .quiet ∧
    (s.building b).sources = 0 ∧ (s.building b).signal = none ∧ (s.building b).timer = none) ∧
  (s.line.budget = 2 ∧ s.line.grants = [] ∧ s.line.waiting = [] ∧ ∀ l : LineId, (s.clock l).state = .disabled ∧
    (s.clock l).inflight = none) ∧
  (s.scan.converter = none ∧ s.scan.queue = [] ∧ s.scan.pos = 8 ∧
    ∀ k : ChannelId, s.channel k = ⟨[], .ok, 64, 960⟩) ∧
  (s.power.part = .starting ∧ s.power.power = .reserve ∧ s.power.mains = .absent ∧ s.power.cause = .cold ∧
    s.power.storeOp = none) ∧
  (s.rh.queue = [] ∧ s.rh.current = none ∧ s.rh.nextPage = 0 ∧ s.rh.pageSeq = 0 ∧ s.rh.dropped = 0 ∧
    s.rh.notice = 0 ∧ s.rh.noticeEnable = 0 ∧ s.rh.sweepCount = 0 ∧ s.rh.sweeping = false ∧
    ∀ i : CellId, s.rh.cells.at i = ⟨false, 0⟩) ∧
  s.mem = []

/-- R163: while the part is RUNNING with supply, every field of the retained block equals the running state's own, and
the validity word is the sum of the other words; every step keeps it so. -/
def Obligations.RetainedBlockStaysCurrent : Prop :=
  ∀ s t : State, s.blockCurrent → step s = .next t → t.blockCurrent

/-- R171, R179, R181: common memory and the EEPROM stay in their one canonical form; and the holding queue has at most
32 records, a page that is FILLING fewer than 31, after every step, if they had before it. -/
def Obligations.MemoriesAndPagesKeepTheirForm : Prop :=
  (∀ s t : State, s.memoriesWf → step s = .next t → t.memoriesWf) ∧
  ∀ s t : State, s.rh.fits → step s = .next t → t.rh.fits

/-- R59: in every state that a step reaches, a zone's effective mode is its override's mode where it has an override;
or else EMERGENCY_ONLY where it has a quiet mark and a base mode other than OFF; or else its base mode. -/
def Obligations.ModesFollowOverridesAndQuiet : Prop :=
  ∀ s t : State, s.modesRight → step s = .next t → ∀ z : ZoneId,
    (∀ o, (t.zone z).override = some o → (t.zone z).effective = o.mode) ∧
    ((t.zone z).override = none → ((t.zone z).dayQuiet || (t.zone z).schedQuiet) = true → (t.zone z).base ≠ .off →
      (t.zone z).effective = .emergencyOnly) ∧
    ((t.zone z).override = none → ((t.zone z).dayQuiet || (t.zone z).schedQuiet) = true → (t.zone z).base = .off →
      (t.zone z).effective = .off) ∧
    ((t.zone z).override = none → ((t.zone z).dayQuiet || (t.zone z).schedQuiet) = false →
      (t.zone z).effective = (t.zone z).base)

/-- R136: at most K grants stand after every step, if they did before it. And where before it the lines that hold a
grant are those in ADVANCING and the lines that wait those in ADVANCE_WAIT, each once, none waiting while a grant is
free, so it is after it: every line that holds a grant is in state ADVANCING. -/
def Obligations.GrantsStayWithinTheBudget : Prop :=
  (∀ s t : State, s.line.grants.length ≤ s.line.budget → step s = .next t → t.line.grants.length ≤ t.line.budget) ∧
  ∀ s t : State, s.line.arbiterRight → step s = .next t →
    t.line.grants.length ≤ t.line.budget ∧ t.line.grants.Nodup ∧ t.line.waiting.Nodup ∧
    (∀ l : LineId, l ∈ t.line.grants ↔ (t.clock l).state = .advancing) ∧
    (∀ l : LineId, l ∈ t.line.waiting ↔ (t.clock l).state = .advanceWait) ∧
    (t.line.waiting ≠ [] → t.line.grants.length = t.line.budget)

/-- R26, R27: after every step the date override list is ascending by date, without a date twice, of at most 16 records,
and so is the list in the retained block, if both were before it. R22, R44: a zone's scheduled-quiet mark is set while
some group's set holds the zone and clear while none does, and its day-quiet mark is that of the day-quiet set of today,
after every step, if it was so before it. -/
def Obligations.OverridesAndQuietMarksStayRight : Prop :=
  (∀ s t : State, s.overridesRight → step s = .next t →
    t.cal.overrides.Pairwise (fun a b => a.day < b.day) ∧ t.cal.overrides.length ≤ 16 ∧ t.overridesRight) ∧
  ∀ s t : State, s.quietMarksRight → step s = .next t → ∀ z : ZoneId,
    ((t.zone z).schedQuiet = true ↔ ∃ g : SchedId, Mask.has (t.groupWork g).quiet z.val = true) ∧
    ((t.zone z).dayQuiet = true ↔ ∃ d q g, t.cal.today = some d ∧ t.cal.todayType = some q ∧
      t.cal.quietGroup.at q = some g ∧ Mask.has (t.router.groups.at g) z.val = true)

/-- R69: after every step each requested zone of a session stands in exactly one of connected, waiting, deferred,
held-elsewhere, lost and refused, the refused by one reason, and no other zone stands in any; a zone's occupant is
the session that has the zone connected, and its held slot names the session that has it held elsewhere; all if
it was so before the step. And so with the sources: a generator's users are sessions of its class and pattern, each once
and at one generator (R99, R100); those in the wait list are tone sessions without one (R102); and but in RETAINED a
building's signal is its own session, of class DRILL or above (R108, R125). -/
def Obligations.SessionsZonesAndSourcesAgree : Prop :=
  (∀ s t : State, s.zonesAgree → step s = .next t →
    (∀ (n : SessId) (x : Session) (z : ZoneId), t.sess n = some x →
      (([x.connected, x.waiting, x.deferred, x.held, x.lost, x.refNotAdmitted, x.refFaulted, x.refSuppressed] :
        List ZoneSet).filter fun m => Mask.has m z.val).length = if Mask.has x.requested z.val then 1 else 0) ∧
    ∀ (z : ZoneId) (n : SessId),
      ((t.zone z).occupant = some n ↔ ∃ x, t.sess n = some x ∧ Mask.has x.connected z.val = true) ∧
      ((t.zone z).held = some n ↔ ∃ x, t.sess n = some x ∧ Mask.has x.held z.val = true)) ∧
  ∀ s t : State, s.soundsRight → step s = .next t →
    (∀ (g : GenId) (n : SessId), n ∈ (t.gen g).users → (∃ x q, t.sess n = some x ∧ x.source = .tone q ∧
      (t.gen g).cls = some x.cls ∧ (t.gen g).pattern = some q) ∧ ∀ h : GenId, n ∈ (t.gen h).users → g = h) ∧
    (∀ g : GenId, (t.gen g).users.Nodup) ∧ t.tone.waitList.Nodup ∧
    (∀ n ∈ t.tone.waitList, (∃ x q, t.sess n = some x ∧ x.source = .tone q) ∧ ∀ g : GenId, n ∉ (t.gen g).users) ∧
    (t.power.power ≠ .retained → ∀ (b : BuildingId) (n : SessId), (t.building b).signal = some n →
      ∃ x k, t.sess n = some x ∧ x.origin = .building b k ∧ x.cls.num ≤ 2)

/-- R1: of all commands only EIGHTH_END moves the elapsed count, by one; and every command that makes a start leaves the
part STARTING with the count at 0: supply applied, the release of an asserted reset, whatever takes a RUNNING part to
STARTING (a RESTART, the mains after RETAINED), and whatever ends RETAINED. -/
def Obligations.ElapsedCountMovesOnlyWithEighths : Prop :=
  ∀ (c : Instr) (s t : State), exec c s = .next t →
    let starts : Prop := (∃ pins, c = .supplyApplied pins) ∨
      (∃ pins, c = .resetRelease pins ∧ s.power.supplied = true ∧ s.power.resetAsserted = true) ∨
      (s.power.part = .running ∧ t.power.part = .starting) ∨
      (s.power.power = .retained ∧ t.power.power ≠ .retained)
    (starts → t.power.part = .starting ∧ t.time.elapsed = 0) ∧
    (¬ starts → t.time.elapsed = s.time.elapsed ∨
      (∃ inp, c = .eighthEnd inp) ∧ t.time.elapsed = s.time.elapsed + 1)

/-! ### Campus time (chapter 1) -/

/-- EIGHTH_END: with supply the elapsed count increases by one, unless this boundary makes a start (R1); without
supply there is no eighth (log entry 11). And R2: what the end of an eighth does to standard time, seen where nothing else
runs (the part STARTING or held in reset) and no event of the eighth before is still to come: an eighth that is not the
last of its second counts on, the 8th of a lengthened second being the second eighth 7; the last one brings the second
boundary, taken at once where the sender says so (secondFirst, log entry 12); and at the end of the supported range time stays and quality becomes UNSET (in an adjusted last second, log
entry 40). The bell, zone, tone, line and scan blocks stand. -/
def Obligations.EighthEndCounts : Prop :=
  (∀ (inp : BoundaryInput) (s : State),
    (s.power.supplied = true → ∃ t, exec (.eighthEnd inp) s = .next t ∧ t.power.supplied = true ∧
      (t.time.elapsed = s.time.elapsed + 1 ∨ t.power.part = .starting ∧ t.time.elapsed = 0)) ∧
    (s.power.supplied = false → exec (.eighthEnd inp) s = .next s)) ∧
  ∀ (inp : BoundaryInput) (s : State), s.power.supplied = true → s.up = false →
    (s.power.power ≠ .retained ∨ s.power.resetAsserted = true) → s.time.boundaryDue = false →
    s.time.qualityTimer = none → s.time.assembly = none →
    let r : TimeBase := { s.time with elapsed := s.time.elapsed + 1, atBoundary := true }
    let last : Bool :=
      if s.time.adjusted = true ∧ 0 < s.time.slewRem then decide (6 ≤ s.time.eighth)
      else if s.time.adjusted = true ∧ s.time.slewRem < 0 then decide (7 ≤ s.time.eighth) && s.time.again
      else decide (7 ≤ s.time.eighth)
    ∃ t, exec (.eighthEnd inp) s = .next t ∧
      (last = false → s.time.eighth < 7 → t.time = { r with eighth := s.time.eighth + 1 }) ∧
      (last = false → 7 ≤ s.time.eighth → t.time = { r with again := true }) ∧
      (last = true → s.time.stdSec < 3155759999 → inp.secondFirst = false → t.time = { r with boundaryDue := true }) ∧
      (last = true → s.time.stdSec < 3155759999 → inp.secondFirst = true →
        t.time = (s.onTime fun _ => { r with boundaryDue := true }).secondBoundary.time ∧
        t.time.elapsed = s.time.elapsed + 1 ∧ t.time.stdSec = s.time.stdSec + 1 ∧ t.time.eighth = 0 ∧
        t.time.again = false ∧ t.time.boundaryDue = false) ∧
      (last = true → 3155759999 ≤ s.time.stdSec → t.time = { r with quality := .unset, qualityTimer := none }) ∧
      let side (u : State) : Prop :=
        t = { u with time := t.time, drill := t.drill, power := t.power, mem := t.mem, pins := inp.pins }
      (¬ (inp.secondFirst = true ∧ last = true ∧ s.time.stdSec < 3155759999) → side s) ∧
      (inp.secondFirst = true → last = true → s.time.stdSec < 3155759999 →
        side (s.onTime fun _ => { r with boundaryDue := true }).secondBoundary)

/-- STANDARD_SECOND_BOUNDARY (R2, R3, R16): once the last eighth of a second has ended, standard seconds increase by
one, the eighth becomes 0, the slew moves on, and DST is judged at a transition instant and at a date change handed on.
Elapsed count, quality, receiver and rule stand; so do power, the pins, the request cells and the staging area. With no
boundary to take, nothing changes (log entry 11). R5: a slew of d eighths lasts until the standard second boundary that
ends its 8·|d|-th second and no longer; of its seconds the 8th, 16th, 24th, ... are adjusted, and no others; that a slew
begun inside an adjusted second makes the rest of that second a normal one is the model's choice (log entry 18). -/
def Obligations.SecondBoundaryAndSlew : Prop :=
  (∀ s : State,
    (s.power.supplied = true → s.time.boundaryDue = true →
      let new := s.time.stdSec + 1
      let dayBefore := (s.time.stdSec + s.time.dst.seconds s.time.dstInForce) / 86400
      let dayAfter := (new + s.time.dst.seconds s.time.dstInForce) / 86400
      ∃ t, exec .standardSecondBoundary s = .next t ∧
        t.time = { s.time.slewBoundary with
          stdSec := new, eighth := 0, again := false, boundaryDue := false
          dstInForce := if s.time.dst.isInstant new = true ∨
              (dayAfter ≠ dayBefore ∧ s.up = true ∧ s.time.quality ≠ .unset)
            then s.time.dst.inForceAt new else s.time.dstInForce } ∧
        t.power = { s.power with retained := t.power.retained } ∧ t.pins = s.pins ∧ t.pending = s.pending ∧
        Pages s t) ∧
    (s.power.supplied = false ∨ s.time.boundaryDue = false → exec .standardSecondBoundary s = .next s.keep)) ∧
  ∀ (d : Int) (r : TimeBase) (k : Nat), d ≠ 0 →
    let after := Nat.repeat TimeBase.slewBoundary k (r.startSlew d)
    (after.slewRem = 0 ↔ 8 * d.natAbs + 1 ≤ k) ∧
    (after.adjusted = true ↔ 0 < k ∧ k ≤ 8 * d.natAbs ∧ k % 8 = 0)

/-- LOCKED_PERIOD_END and HOLDOVER_PERIOD_END (R4): once a quality period has run, LOCKED becomes HOLDOVER with its timer
restarted, and HOLDOVER becomes FREE; nothing else of the part changes but what the report of it does. Before its
instant neither does anything (log entry 11). R177, R178, R179 and 12.4: the TIME_EVENT record of LOCKED becoming HOLDOVER,
handed over while a page is FILLING, is written byte by byte into the page's next slot, and the page's record count goes
up by one; with 31 records the page is closed, with the PAGE notice. -/
def Obligations.QualityPeriodsEndAndAreRecorded : Prop :=
  (∀ (s : State) (since : Nat), s.power.supplied = true → s.time.quality = .locked →
    s.time.qualityTimer = some since → since + 57600 ≤ s.time.elapsed →
    ∃ t, exec .lockedPeriodEnd s = .next t ∧
      t.time = { s.time with quality := .holdover, qualityTimer := some s.time.elapsed } ∧ TimeSide s t ∧ Pages s t) ∧
  (∀ (s : State) (since : Nat), s.power.supplied = true → s.time.quality = .holdover →
    s.time.qualityTimer = some since → since + 2073600 ≤ s.time.elapsed →
    ∃ t, exec .holdoverPeriodEnd s = .next t ∧
      t.time = { s.time with quality := .free, qualityTimer := none } ∧ TimeSide s t ∧ Pages s t) ∧
  (∀ s : State,
    (s.time.quality ≠ .locked ∨ (∀ since, s.time.qualityTimer = some since → s.time.elapsed < since + 57600) →
      exec .lockedPeriodEnd s = .next s.keep) ∧
    (s.time.quality ≠ .holdover ∨ (∀ since, s.time.qualityTimer = some since → s.time.elapsed < since + 2073600) →
      exec .holdoverPeriodEnd s = .next s.keep)) ∧
  ∀ (s : State) (since : Nat) (c : CurPage), s.up = true → s.rh.writerOn = true → s.time.quality = .locked →
    s.time.qualityTimer = some since → since + 57600 ≤ s.time.elapsed → s.rh.current = some c → c.count ≤ 30 →
    ∃ t, exec .lockedPeriodEnd s = .next t ∧
      t.mem.readBytes (pageBase c.page + 16 + 16 * c.count) 16 =
        [11, 6] ++ leBytes 4 s.time.stdSec ++ leBytes 1 s.time.eighth ++ [0, 2, 3, 0, 0, 0, 0, 0, 0] ∧
      t.mem.readWord (pageBase c.page) = (if c.count = 30 then 2 else 1) ∧
      t.mem.readWord (pageBase c.page + 2) = c.seq ∧
      t.mem.readWord (pageBase c.page + 4) = BitVec.ofNat 16 (c.count + 1) ∧
      t.rh = (if c.count = 30 then { s.rh with current := none, notice := Mask.add s.rh.notice Notice.page.bit }
        else { s.rh with
          current := some { c with count := c.count + 1, first := some (c.first.getD s.time.elapsed) } }) ∧
      ∀ a, (a < pageBase c.page ∨ pageBase c.page + 16 ≤ a) →
        (a < pageBase c.page + 16 + 16 * c.count ∨ pageBase c.page + 32 + 16 * c.count ≤ a) →
        t.mem.read a = s.mem.read a

/-- R177 to R181: a record handed to the Report Writer. While a page is FILLING it goes into the next slot, and the header
counts it; at 31 records, and for an urgent record, the page is closed, with the PAGE notice. While none is, the next page is
looked at. Where it reads FREE it is opened, with the dropped count in its header, which starts again from 0; the records
that wait go into it, oldest first, and the new record behind them, and again the 31st or an urgent one closes it. A drain
that fills a page goes on, at once, as if the rest had waited and the page been closed before. Where the next page does not
read FREE the record joins the queue at its end; a full queue drops a routine record, and for an urgent one the oldest
routine record gives way, or, where every record is urgent, the new one is dropped. Each drop counts one; that the count has
no end is the model's choice (log entry 19). So every record is in a page, in the queue, or counted. The end of a sweep
drains the queue in the same way (R180). -/
def Obligations.RecordsWaitForAPage : Prop :=
  let headerOf (state : Nat) (seq : Word) (count dropped : Nat) : List Byte :=
    leBytes 2 state ++ wordBytes seq ++ leBytes 2 count ++ [0, 0] ++ leBytes 4 dropped ++ [0, 0, 0, 0]
  let opens (page : Fin 8) (list : List Rec) (closes : Bool) (s t : State) : Prop :=
    t.mem.readBytes (pageBase page) 16 = headerOf (if closes then 2 else 1) s.rh.pageSeq list.length s.rh.dropped ∧
    (∀ k x, list[k]? = some x → t.mem.readBytes (pageBase page + 16 + 16 * k) 16 = x.bytes) ∧
    ∀ a, (a < pageBase page ∨ pageBase page + 16 + 16 * list.length ≤ a) → t.mem.read a = s.mem.read a
  let took (page : Fin 8) (list : List Rec) (closes : Bool) (notice : BitVec 6) (queue : List Rec) (s : State) :
      ReqHandler := { s.rh with
    queue := queue, dropped := 0, pageSeq := s.rh.pageSeq + 1, nextPage := page + 1
    notice := if closes then Mask.add notice Notice.page.bit else notice
    current := if closes then none else some ⟨page, s.rh.pageSeq, list.length, s.rh.dropped, some s.time.elapsed⟩ }
  (∀ (r : Report) (s : State), s.rh.writerOn = true →
    let new : Rec := ⟨r, r.urgent, s.time.quality, s.time.stdSec, s.time.eighth⟩
    let t := s.report r
    let notices : BitVec 6 := match r.notice with
      | some n => Mask.add s.rh.notice n.bit
      | none => s.rh.notice
    t = { s with rh := t.rh, mem := t.mem } ∧
    (∀ c : CurPage, s.rh.current = some c → c.count ≤ 30 →
      let closes : Bool := c.count == 30 || r.urgent
      let slot := pageBase c.page + 16 + 16 * c.count
      t.rh = (if closes then { s.rh with current := none, notice := Mask.add notices Notice.page.bit } else { s.rh with
        notice := notices, current := some { c with count := c.count + 1, first := some (c.first.getD s.time.elapsed) } }) ∧
      t.mem.readBytes slot 16 = new.bytes ∧
      t.mem.readBytes (pageBase c.page) 16 = headerOf (if closes then 2 else 1) c.seq (c.count + 1) c.dropped ∧
      ∀ a, (a < pageBase c.page ∨ pageBase c.page + 16 ≤ a) → (a < slot ∨ slot + 16 ≤ a) → t.mem.read a = s.mem.read a) ∧
    (s.rh.current = none →
      let list := s.rh.queue ++ [new]
      let page := s.rh.nextPage
      let free : Prop := s.mem.readWord (pageBase page) = 0
      let queued (q : List Rec) (drops : Nat) : Prop :=
        t.rh = { s.rh with queue := q, dropped := s.rh.dropped + drops, notice := notices }
      (¬ free → t.mem = s.mem ∧ t.rh.queue.length + t.rh.dropped = s.rh.queue.length + s.rh.dropped + 1) ∧
      (¬ free → s.rh.queue.length < 32 → queued list 0) ∧
      (¬ free → 32 ≤ s.rh.queue.length → r.urgent = false → queued s.rh.queue 1) ∧
      (¬ free → 32 ≤ s.rh.queue.length → r.urgent = true → (∀ x ∈ s.rh.queue, x.urgent = true) → queued s.rh.queue 1) ∧
      (¬ free → 32 ≤ s.rh.queue.length → r.urgent = true → ∀ front x back, s.rh.queue = front ++ x :: back →
        (∀ y ∈ front, y.urgent = true) → x.urgent = false → queued (front ++ back ++ [new]) 1) ∧
      (free → s.rh.queue.length ≤ 30 → (∀ x ∈ s.rh.queue, x.urgent = false) →
        let closes : Bool := s.rh.queue.length == 30 || r.urgent
        t.rh = took page list closes notices [] s ∧ opens page list closes s t))) ∧
  (∀ s : State, s.rh.current = none →
    let page := s.rh.nextPage
    let free : Prop := s.mem.readWord (pageBase page) = 0
    (s.rh.queue = [] ∨ ¬ free → s.drainQueue = s) ∧
    (free → s.rh.queue ≠ [] → s.rh.queue.length ≤ 30 → (∀ x ∈ s.rh.queue, x.urgent = false) →
      ∃ t, s.drainQueue = t ∧ t = { s with rh := took page s.rh.queue false s.rh.notice [] s, mem := t.mem } ∧
        opens page s.rh.queue false s t) ∧
    ∀ before last rest, free → s.rh.queue = before ++ last :: rest → (∀ x ∈ before, x.urgent = false) →
      before.length ≤ 30 → (before.length = 30 ∨ last.urgent = true) →
      ∃ u, u = { s with rh := took page (before ++ [last]) true s.rh.notice rest s, mem := u.mem } ∧
        opens page (before ++ [last]) true s u ∧ s.drainQueue = u.drainQueue ∧
        (s.rh.writerOn = true → ∀ r : Report, s.report r = u.report r)) ∧
  ∀ (value : Word) (s : State), s.up = true → s.rh.queue ≠ [] →
    (∀ j : CellId, (s.rh.cells.at j).inFlight = true ∨ (s.mem.readWord (cellBase j)).toNat % 16 ≠ 1) →
    exec (.sweepWrite value [] []) s = .next (s.between.onRh fun r =>
      { r with sweepCount := r.sweepCount + 1, sweeping := false, again := false }).drainQueue.keep

/-- TELEGRAM_CHARACTER (R8, R9): what one character does, short of completing a telegram, while the receiver runs, which
under reset is log entry 20: an error of parity (which goes before one of framing, log entry 32) or of framing, a 'T', a
character of the class its position calls for or of another. While the part reads its standing image a character is held
with the count at which it came, and a second one is lost to overrun; a held character is examined before the next, and
a telegram counts from the count at which its 'T' came (log entry 32). TELEGRAM_TIMEOUT (R9): a telegram not completed by 8
eighths after its 'T' is dropped (that it is at exactly 8 is log entry 32), and before that nothing happens (log
entry 11). -/
def Obligations.TelegramCharacters : Prop :=
  (∀ (ch : RxChar) (waits : Bool) (s : State), s.power.supplied = true → s.power.power ≠ .retained →
    let go (f : TimeBase → TimeBase) : Prop :=
      exec (.telegramCharacter ch waits) s = .next (s.between.onTime f).keep
    let bumped (f : RxCounters → RxCounters) : Prop :=
      go fun r => { r with assembly := none, counters := f r.counters }
    let odd (c : RxChar) : Prop :=
      ((List.finRange 8).filter fun i => c.data.getLsbD i.val).length % 2 ≠ bitNum c.parity
    (waits = true → s.starting = true → s.time.held = none → go fun r => { r with held := some ⟨ch, s.time.elapsed⟩ }) ∧
    (waits = true → s.starting = true → s.time.held ≠ none →
      bumped fun c => { c with overrun := bump c.overrun }) ∧
    (waits = false ∨ s.starting = false →
      (s.time.held = none → odd ch → bumped fun c => { c with parity := bump c.parity }) ∧
      (s.time.held = none → ¬ odd ch → ch.stop = false → bumped fun c => { c with framing := bump c.framing }) ∧
      (s.time.held = none → ¬ odd ch → ch.stop = true →
        (s.time.assembly = none → ch.data = 0x54 → go fun r => { r with assembly := some ⟨[0x54], s.time.elapsed⟩ }) ∧
        (s.time.assembly = none → ch.data ≠ 0x54 → go id) ∧
        ∀ a, s.time.assembly = some a →
          (ch.data = 0x54 → go fun r => { r with
            assembly := some ⟨[0x54], s.time.elapsed⟩, counters := { r.counters with format := bump r.counters.format } }) ∧
          (ch.data ≠ 0x54 → classAt a.chars.length ch.data = false →
            bumped fun c => { c with format := bump c.format }) ∧
          (ch.data ≠ 0x54 → classAt a.chars.length ch.data = true → a.chars.length ≠ 19 →
            go fun r => { r with assembly := some { a with chars := a.chars ++ [ch.data] } })) ∧
      ∀ h, s.time.held = some h → ¬ odd h.ch → h.ch.stop = true → h.ch.data = 0x54 → s.time.assembly = none →
        ¬ odd ch → ch.stop = true → 0x30 ≤ ch.data.toNat → ch.data.toNat ≤ 0x39 →
        go fun r => { r with held := none, assembly := some ⟨[0x54, ch.data], h.at_⟩ })) ∧
  ∀ s : State,
    (∀ a : Assembly, s.power.supplied = true → s.power.power ≠ .retained → s.time.assembly = some a →
      a.since + 8 ≤ s.time.elapsed → exec .telegramTimeout s = .next (s.onTime fun r => { r with
        assembly := none, counters := { r.counters with format := bump r.counters.format } }).keep) ∧
    ((∀ a, s.time.assembly = some a → s.time.elapsed < a.since + 8) → exec .telegramTimeout s = .next s.keep)

/-- TELEGRAM_CHARACTER that completes a telegram (R10 to R13). The first check that fails, of checksum, range and weekday,
discards it with its own counter; a stated time that converts to no standard time counts under gap. The reading by the
DST flag is taken where it is consistent with the rule, and else the other where that is, with the disagreement counted.
A valid telegram becomes the candidate; it is acted on where it is exactly 60 s after the candidate and came 472 to 488
eighths after it: quality becomes LOCKED with its timer restarted; an offset of at most one eighth cancels any slew, one
of 2 to 16 starts a slew of that many eighths, and a larger one, or UNSET time, steps standard time to the telegram's and hands one time move on, FIRST_SET from
UNSET time, else TELEGRAM_STEP from the civil time before, and none where civil time is as before (R6, R7). -/
def Obligations.CompleteTelegramsAreJudged : Prop :=
  (∀ (cs : List Byte) (n : Nat → Nat) (x y : Nat), cs.length = 20 → (∀ k, n k ≤ 9) → x ≤ 15 → y ≤ 15 →
    (∀ k, k ∈ [1, 2, 3, 4, 5, 6, 8, 9, 10, 11, 12, 13, 14] → cs[k]? = some (BitVec.ofNat 8 (0x30 + n k))) →
    let hex (v : Nat) : Byte := BitVec.ofNat 8 (if v ≤ 9 then 0x30 + v else 0x37 + v)
    cs[17]? = some (hex x) → cs[18]? = some (hex y) →
    telegramOf cs = { date := ⟨2000 + 10 * n 1 + n 2, 10 * n 3 + n 4, 10 * n 5 + n 6⟩, weekday := n 8
                      hour := 10 * n 9 + n 10, minute := 10 * n 11 + n 12, second := 10 * n 13 + n 14
                      summer := cs[15]? == some 0x44 } ∧
    (checkAgrees cs = true ↔ ((cs.take 17).foldl (fun a b => a ^^^ b) 0).toNat = 16 * x + y)) ∧
  ∀ (ch : RxChar) (waits : Bool) (s : State) (a : Assembly), s.up = true → s.time.held = none → parityOk ch = true →
    ch.stop = true → ch.data = 0x0D → s.time.assembly = some a → a.chars.length = 19 →
    let c : Instr := .telegramCharacter ch waits
    let cs := a.chars ++ [ch.data]
    let g := telegramOf cs
    let inRange : Prop := g.date.valid = true ∧ g.hour ≤ 23 ∧ g.minute ≤ 59 ∧ g.second ≤ 59 ∧ g.weekday ≤ 6
    let right : Prop := checkAgrees cs = true ∧ inRange ∧ weekdayOf (dayNumber g.date) = g.weekday
    let discarded (f : RxCounters → RxCounters) : Prop :=
      exec c s = .next (s.between.onTime fun r => { r with assembly := none, counters := f r.counters }).keep
    let stated : Int := dayNumber g.date * 86400 + g.hour * 3600 + g.minute * 60 + g.second
    let reading (dst : Bool) : Int := if dst = true then stated - s.time.dst.offset * 60 else stated
    let consistent (dst : Bool) : Prop := 0 ≤ reading dst ∧ s.time.dst.inForceAt (reading dst).toNat = dst
    (checkAgrees cs = false → discarded fun k => { k with checksum := bump k.checksum }) ∧
    (checkAgrees cs = true → ¬ inRange → discarded fun k => { k with range := bump k.range }) ∧
    (checkAgrees cs = true → inRange → weekdayOf (dayNumber g.date) ≠ g.weekday →
      discarded fun k => { k with weekday := bump k.weekday }) ∧
    (right → ¬ consistent g.summer → ¬ consistent (!g.summer) → discarded fun k => { k with gap := bump k.gap }) ∧
    ∀ (sec : Nat) (agrees : Bool), right →
      (agrees = true → consistent g.summer ∧ (sec : Int) = reading g.summer) →
      (agrees = false → ¬ consistent g.summer ∧ consistent (!g.summer) ∧ (sec : Int) = reading (!g.summer)) →
      let accepted : Prop := ∃ k, s.time.candidate = some k ∧ sec = k.stdSec + 60 ∧
        k.at_ + 472 ≤ s.time.elapsed ∧ s.time.elapsed ≤ k.at_ + 488
      let d : Int := 8 * (sec : Int) - (8 * (s.time.stdSec : Int) + s.time.eighth)
      ∃ t, exec c s = .next t ∧ t.time.assembly = none ∧ t.time.candidate = some ⟨sec, s.time.elapsed⟩ ∧
        t.time.elapsed = s.time.elapsed ∧ t.time.dst = s.time.dst ∧ t.time.disagree = !agrees ∧
        t.time.counters.valid = bump s.time.counters.valid ∧
        t.time.counters.disagreement =
          (if agrees = true then s.time.counters.disagreement else bump s.time.counters.disagreement) ∧
        t.power = { s.power with retained := t.power.retained } ∧ t.pins = s.pins ∧ t.pending = s.pending ∧
        Pages s t ∧
        (¬ accepted → TimeSide s.between t ∧ t.time = { s.time with
          atBoundary := false, assembly := none, candidate := some ⟨sec, s.time.elapsed⟩, disagree := !agrees
          counters := { s.time.counters with valid := t.time.counters.valid
                                             disagreement := t.time.counters.disagreement } }) ∧
        (accepted → t.time.quality = .locked ∧ t.time.qualityTimer = some s.time.elapsed ∧
          t.time.counters.acted = bump s.time.counters.acted ∧
          (s.time.quality ≠ .unset → d.natAbs ≤ 1 → t.time.stdSec = s.time.stdSec ∧ t.time.eighth = s.time.eighth ∧
            t.time.dstInForce = s.time.dstInForce ∧ t.time.slewRem = 0 ∧ t.time.slewCount = 0 ∧
            TimeSide s.between t) ∧
          (s.time.quality ≠ .unset → 2 ≤ d.natAbs → d.natAbs ≤ 16 → t.time.stdSec = s.time.stdSec ∧
            t.time.eighth = s.time.eighth ∧ t.time.dstInForce = s.time.dstInForce ∧ t.time.slewRem = d ∧
            t.time.slewCount = 0 ∧ TimeSide s.between t) ∧
          (s.time.quality = .unset ∨ 16 < d.natAbs →
            let flag := s.time.dst.inForceAt sec
            let civil := sec + s.time.dst.seconds flag
            let new : CivilTime := ⟨civil / 86400, civil % 86400, 0⟩
            let change : DstChange :=
              if flag = s.time.dstInForce then .unchanged else if flag then .nowInForce else .noLonger
            t.time.stdSec = sec ∧ t.time.eighth = 0 ∧ t.time.slewRem = 0 ∧ t.time.slewCount = 0 ∧
            t.time.dstInForce = flag ∧ ∃ u, TimeSide s.between u ∧ u.time = t.time ∧
              t = (if s.time.quality = .unset then u.handMove ⟨none, new, .firstSet, change⟩
                else if new = s.civil then u
                else u.handMove ⟨some s.civil, new, .telegramStep, change⟩).whole.keep))

/-- TIME_SET (R14, R6, R4): carried out, standard time takes the given value with eighth 0, any slew is gone, DST is judged
there, quality becomes FREE, or HOLDOVER from LOCKED, and the request is answered OK with the time and quality before
it and the DST state after; the receiver, the elapsed count and the rule stand. Refused: RANGE for a year outside
2000..2099; then BAD_PARAM for a date, a time of day or a force flag that does not exist; then REFERENCE_LOCKED without
force while LOCKED; only the cell tells of it. R7: carried out, it hands one time move on, which is FIRST_SET where time was
UNSET, HOST_STEP from the civil time before it otherwise, and none where civil time is as before; the change of quality is
told before the move (the order: log entry 17), and the event is carried out whole before the answer. That a boundary still
due is dropped (log entry 44), and that an adjusted or repeated last eighth is adjusted no more (log entry 18), is the
model's choice. -/
def Obligations.TimeSetStepsOrIsRefused : Prop :=
  (∀ (i : CellId) (tag year : Word) (month day hour minute second force : Byte) (s : State), s.takes i →
    2000 ≤ year.toNat → year.toNat ≤ 2099 → (Date.valid ⟨year.toNat, month.toNat, day.toNat⟩) = true →
    hour.toNat ≤ 23 → minute.toNat ≤ 59 → second.toNat ≤ 59 → force.toNat ≤ 1 →
    (s.time.quality = .locked → force.toNat = 1) →
    let sec := dayNumber ⟨year.toNat, month.toNat, day.toNat⟩ * 86400 + hour.toNat * 3600 + minute.toNat * 60 +
      second.toNat
    let flag := s.time.dst.inForceAt sec
    let old : Nat × Nat := if s.time.quality = .unset then (0, 0) else (s.time.stdSec, s.time.eighth)
    let set : TimeBase := { s.time with
      stdSec := sec, eighth := 0, again := false, adjusted := false, boundaryDue := false, slewRem := 0
      slewCount := 0, dstInForce := flag
      quality := if s.time.quality = .locked then .holdover else .free
      qualityTimer := if s.time.quality = .locked then some s.time.elapsed else none }
    let answer : Answer :=
      ⟨.ok, 0, leBytes 4 old.1 ++ leBytes 1 old.2 ++ leBytes 1 s.time.quality.num ++ leBytes 1 (bitNum flag)⟩
    let stepped : State :=
      (s.posted i .timeSet tag (timeSetParams year month day hour minute second force)).onTime fun _ => set
    let told : State := if set.quality = s.time.quality then stepped
      else stepped.report (.qualityChange s.time.quality set.quality)
    let civil := sec + s.time.dst.seconds flag
    let new : CivilTime := ⟨civil / 86400, civil % 86400, 0⟩
    let change : DstChange := if flag = s.time.dstInForce then .unchanged else if flag then .nowInForce else .noLonger
    let moved : State := if s.time.quality = .unset then told.handMove ⟨none, new, .firstSet, change⟩
      else if new = s.civil then told else told.handMove ⟨some s.civil, new, .hostStep, change⟩
    ∃ t, exec (.timeSet i tag year month day hour minute second force) s = .next t ∧
      t = (moved.whole.complete i 1 tag answer).keep ∧ t.time = set ∧ Answered i .timeSet tag answer s t ∧
      t.power = { s.power with retained := t.power.retained } ∧ t.pins = s.pins ∧ t.pending = s.pending) ∧
  ∀ (i : CellId) (tag year : Word) (month day hour minute second force : Byte) (s : State), s.takes i →
    let inYears : Prop := 2000 ≤ year.toNat ∧ year.toNat ≤ 2099
    let good : Prop := (Date.valid ⟨year.toNat, month.toNat, day.toNat⟩) = true ∧ hour.toNat ≤ 23 ∧
      minute.toNat ≤ 59 ∧ second.toNat ≤ 59 ∧ force.toNat ≤ 1
    let refused (c : Code) : Prop := ∃ t, exec (.timeSet i tag year month day hour minute second force) s = .next t ∧
      Answered i .timeSet tag ⟨c, 0, []⟩ s t ∧ HostSide s t
    (¬ inYears → refused .range) ∧ (inYears → ¬ good → refused .badParam) ∧
    (inYears → good → s.time.quality = .locked → force.toNat = 0 → refused .referenceLocked)

/-- R18: over days 0 to 36524 a day number goes to a date that exists and back to itself, and over the years 2000 to
2099 a date that exists goes to a day number in that range and back to itself; day 36525 is 2100-01-01. A day number is
365 days for each year before, a day more for each leap year of them, the days of the months before and the days of the
month before; the weekday of day d is (d + 6) mod 7, 2000-01-01 being a Saturday. R15: a transition day falls on the rule's
weekday, within the rule's month of the year: in the month's n-th week of seven days for an ordinal n of 1 to 4, and in its
last seven days for the ordinal 5; the transition instant is that day's start and the rule's standard hour. -/
def Obligations.DatesAndTransitionDays : Prop :=
  (∀ d : Nat, d ≤ 36524 → (dateOf d).valid = true ∧ 2000 ≤ (dateOf d).year ∧ (dateOf d).year ≤ 2099 ∧
    dayNumber (dateOf d) = d) ∧
  (∀ t : Date, 2000 ≤ t.year → t.year ≤ 2099 → t.valid = true → dayNumber t ≤ 36524 ∧ dateOf (dayNumber t) = t) ∧
  dateOf 36525 = ⟨2100, 1, 1⟩ ∧ dayNumber ⟨2100, 1, 1⟩ = 36525 ∧
  (∀ t : Date, 2000 ≤ t.year → t.year ≤ 2100 → t.valid = true →
    dayNumber t = 365 * (t.year - 2000) + ((List.range (t.year - 2000)).filter fun k => (2000 + k) % 4 == 0).length +
      ((List.range (t.month - 1)).map fun k => match k + 1 with
        | 2 => if t.year % 4 = 0 then 29 else 28
        | 4 | 6 | 9 | 11 => 30
        | _ => 31).sum + (t.day - 1)) ∧
  weekdayOf (dayNumber ⟨2000, 1, 1⟩) = 6 ∧ (∀ d : Nat, weekdayOf d = (d + 6) % 7) ∧
  ∀ (rule : TransRule) (year : Nat), 2000 ≤ year → year ≤ 2099 → 1 ≤ rule.month → rule.month ≤ 12 →
    1 ≤ rule.ordinal → rule.ordinal ≤ 5 → rule.weekday ≤ 6 →
    let d := transitionDay rule year
    let first := dayNumber ⟨year, rule.month, 1⟩
    weekdayOf d = rule.weekday ∧ first ≤ d ∧ d < first + monthDays year rule.month ∧
    (rule.ordinal ≤ 4 → first + 7 * (rule.ordinal - 1) ≤ d ∧ d < first + 7 * rule.ordinal) ∧
    (rule.ordinal = 5 → first + monthDays year rule.month ≤ d + 7) ∧
    transitionInstant rule year = d * 86400 + rule.hour * 3600
/-! ### Calendar (chapter 2) -/

/-- DAY_OVERRIDE (R26 to R29). Refused: NOT_READY while time is UNSET; then RANGE for a year outside 2000..2099; BAD_PARAM for
a date that does not exist, or for SET a type above 15; RANGE for a date before today. SET: the date takes the given
day type and every other date keeps its own, and a full list that does not hold the date is answered TABLE_FULL; CLEAR: the
date's record is removed, and no other, and a date without one is answered NO_SESSION. Carried out, today's type follows
if the date is today; if it changed, every group that works today on another program than its new selection is handed
it as a program switch, and the day-quiet set of the new type is handed over; and the answer says how many records
stand, the date's type, whether the record is new, replaced or cleared, and whether today's type changed. -/
def Obligations.DayOverridesSetAndCleared : Prop :=
  ∀ (i : CellId) (tag year : Word) (month day : Byte) (s : State), s.takes i →
    let date : Date := ⟨year.toNat, month.toNat, day.toNat⟩
    let d := dayNumber date
    let set (y : Byte) : Instr := .dayOverrideSet i tag year month day y
    let clear : Instr := .dayOverrideClear i tag year month day
    let refused (c : Instr) (code : Code) : Prop :=
      ∃ t, exec c s = .next t ∧ Answered i .dayOverride tag ⟨code, 0, []⟩ s t ∧ HostSide s t
    let inYears : Prop := 2000 ≤ year.toNat ∧ year.toNat ≤ 2099
    let there : Prop := inYears ∧ date.valid = true
    let held : Bool := s.cal.overrides.any fun o => o.day == d
    let done (c : Instr) (t : State) (what : Byte) : Prop :=
      let changed : Bool := decide (s.cal.today = some d) && s.cal.todayType != some (t.cal.typeOf d)
      let selection (g : SchedId) : Option ProgId := (s.cal.groups.at g).progMap.at (t.cal.typeOf d)
      exec c s = .next t ∧ (∀ e, e ≠ d → t.cal.typeOf e = s.cal.typeOf e) ∧ t.cal.today = s.cal.today ∧
      t.cal.todayType = (if s.cal.today = some d then some (t.cal.typeOf d) else s.cal.todayType) ∧
      Answered i .dayOverride tag
        ⟨.ok, 0, leBytes 1 t.cal.overrides.length ++ leBytes 1 (t.cal.typeOf d).val ++ [what] ++
          [if changed then 1 else 0]⟩ s t ∧
      (∀ z, (t.zone z).dayQuiet = if changed then Mask.has t.dayQuietSet z.val else (s.zone z).dayQuiet) ∧
      (s.noneDown → ∀ g : SchedId,
        let switches : Prop := changed = true ∧ (s.groupWork g).working = true ∧ (s.groupWork g).date = some d ∧
          (s.groupWork g).program ≠ selection g
        (switches → t.groupWork g = { s.groupWork g with
            program := selection g, quiet := 0, watermark := max (s.groupWork g).watermark s.civil.sec } ∧
          ∀ b : BuildingId, (t.bell.resume.at g).at b = none) ∧
        (¬ switches → t.groupWork g = s.groupWork g ∧ t.bell.resume.at g = s.bell.resume.at g)) ∧
      t.time = s.time ∧ t.line = s.line ∧ t.scan = s.scan ∧ t.pins = s.pins ∧ t.pending = s.pending ∧
      t.power = { s.power with retained := t.power.retained } ∧
      ∀ b, (s.building b).state ≠ .standingDown → (t.building b).core = (s.building b).core
    (s.time.quality = .unset → refused clear .notReady ∧ ∀ y, refused (set y) .notReady) ∧
    (s.time.quality ≠ .unset →
      (¬ inYears → refused clear .range ∧ ∀ y, refused (set y) .range) ∧
      (inYears → date.valid = false → refused clear .badParam ∧ ∀ y, refused (set y) .badParam) ∧
      (there → ∀ y : Byte, 16 ≤ y.toNat → refused (set y) .badParam) ∧
      (there → (∃ today, s.cal.today = some today ∧ d < today) →
        refused clear .range ∧ ∀ y : Byte, y.toNat < 16 → refused (set y) .range) ∧
      (there → (∀ today, s.cal.today = some today → today ≤ d) →
        (∀ (y : Byte) (hy : y.toNat < 16),
          (held = true ∨ s.cal.overrides.length < 16 →
            ∃ t, done (set y) t (if held then 1 else 0) ∧ t.cal.typeOf d = ⟨y.toNat, hy⟩) ∧
          (held = false → 16 ≤ s.cal.overrides.length → refused (set y) .tableFull)) ∧
        (held = true → ∃ t, done clear t 2 ∧ t.cal.overrides = s.cal.overrides.filter fun o => o.day != d) ∧
        (held = false → refused clear .noSession)))

/-! ### Bell programs (chapter 3) -/

/-- R37: a civil second boundary without a date change. In ascending group number (log entry 49), each WORKING group takes,
in stored order, every entry of its program with watermark < time ≤ now, fired within grace and reported missed beyond it;
NONE takes none; its watermark becomes now, or stays where it is above; its date and program stand. An IDLE group does
nothing. Then the lines are dealt with, what the event leaves (R108, R122), the mirror, and the retained block: that the
lines come after the bells is the model's choice (log entry 52), and that mirror and header come last is log entry 53. -/
def Obligations.BellsTakeWhatTheWatermarkPasses : Prop :=
  (∀ s : State, s.up = true → s.time.boundaryDue = true → s.time.quality ≠ .unset →
    let new := s.time.stdSec + 1
    let shift := s.time.dst.seconds s.time.dstInForce
    let now := (new + shift) % 86400
    (new + shift) / 86400 = (s.time.stdSec + shift) / 86400 →
    (s.time.dst.isInstant new = false ∨ s.time.dst.inForceAt new = s.time.dstInForce) →
    ∃ t, exec .standardSecondBoundary s = .next t ∧
      t = (((((List.finRange 8).foldl (fun u g => State.runWatermark g now u) (s.onTime TimeBase.nextSecond)).lineBoundary
        ⟨(new + shift) / 86400, now, 0⟩).whole).publish).keep ∧
      ∀ g : SchedId, (t.groupWork g).working = (s.groupWork g).working ∧ (t.groupWork g).date = (s.groupWork g).date ∧
        (t.groupWork g).program = (s.groupWork g).program ∧
        (t.groupWork g).watermark = if (s.groupWork g).working = true then max (s.groupWork g).watermark now
          else (s.groupWork g).watermark) ∧
  ∀ (g : SchedId) (now : Nat) (s : State),
    let r := s.groupWork g
    let grace := (s.cal.groups.at g).grace
    let moved (t : State) : State := t.onGroup g fun q => { q with watermark := max q.watermark now }
    (r.working = false → s.runWatermark g now = s) ∧
    (r.working = true → r.program = none → s.runWatermark g now = moved s) ∧
    ∀ p, r.working = true → r.program = some p →
      let due := (s.bell.programs.at p).zipIdx.filter fun e => decide (r.watermark < e.1.time ∧ e.1.time ≤ now)
      s.runWatermark g now = moved (due.foldl (fun t e =>
        if now - e.1.time ≤ grace then t.fire g ⟨p, e.2⟩ e.1 (now - e.1.time) none
        else t.report (.entryMissed g ⟨p, e.2⟩ (now - e.1.time))) s)

/-- R39 to R45, R47: an entry fires. Its firing zones are those of its target group that lie in a building of the group's
scope, for a resume ring in the one building. Without any it is reported NO_ZONES and does nothing else. QUIET_ON and
QUIET_OFF change the group's scheduled-quiet set by them. RING and CUE leave out the suppressed zones, which are all outside
NORMAL and else those of a building that is not QUIET in the view; with none left the firing is SUPPRESSED; otherwise a
BELL session is asked for, and the report says its number, or TABLE_FULL (a CUE: log entry 64). The suppressed buildings' pending-resume places
take a resumable entry where the group has the option. R48: for a building that has become QUIET in NORMAL, a WORKING
group's pending entry is taken from its place and fired in that building alone. -/
def Obligations.EntriesFireAndResume : Prop :=
  (∀ (g : SchedId) (ref : EntryRef) (e : Entry) (late : Nat) (only : Option BuildingId) (s : State)
    (zones : ZoneSet), (e.action = .ring ∨ e.action = .cue ∨ only = none) →
    (∀ z : ZoneId, Mask.has zones z.val = true ↔ Mask.has (s.router.groups.at e.target) z.val = true ∧
      (∃ b : BuildingId, Mask.has (s.cal.groups.at g).scope b.val = true ∧
        Mask.has (s.router.maps.at b) z.val = true) ∧
      ∀ b, only = some b → Mask.has (s.router.maps.at b) z.val = true) →
    (zones = 0 → s.fire g ref e late only = s.report (.entryFired g ref late .noZones 0 only.isSome)) ∧
    (zones ≠ 0 → e.action = .quietOn ∨ e.action = .quietOff →
      let set := if e.action = .quietOn then (s.groupWork g).quiet ||| zones else (s.groupWork g).quiet &&& ~~~zones
      ∃ u, s.fire g ref e late only = u.report (.entryFired g ref late .quiet 0 false) ∧ SoundSide s u ∧ Pages s u ∧
        u.bell = { s.bell with groups := s.bell.groups.put g { s.groupWork g with quiet := set } } ∧
        (s.quietMarksRight → u.quietMarksRight)) ∧
    ∀ (suppressed : ZoneSet) (bs : BuildingSet), zones ≠ 0 → e.action = .ring ∨ e.action = .cue →
      (∀ z : ZoneId, Mask.has suppressed z.val = true ↔ Mask.has zones z.val = true ∧ (s.power.power ≠ .normal ∨
        ∃ b : BuildingId, s.bell.viewQuiet.at b = false ∧ Mask.has (s.router.maps.at b) z.val = true)) →
      (∀ b : BuildingId, Mask.has bs b.val = true ↔
        ∃ z : ZoneId, Mask.has suppressed z.val = true ∧ Mask.has (s.router.maps.at b) z.val = true) →
      let ask : SessionAsk :=
        { cls := .bell, origin := .scheduler g ref, zones := zones &&& ~~~suppressed, suppressed := suppressed
          source := if e.action = .ring then .tone e.pattern else .player e.player e.message 1
          duration := if e.action = .ring then some e.duration else none, deferLimit := e.deferLimit }
      let recorded (t : State) : State :=
        if e.resumable = true ∧ (s.cal.groups.at g).resume = true then t.onBell fun r => { r with
          resume := r.resume.put g (Tab.tabulate 6 fun b =>
            if Mask.has bs b.val then some ref else (r.resume.at g).at b) }
        else t
      let told (t : State) (out : FireOutcome) : State :=
        (recorded t).report (.entryFired g ref late out bs only.isSome)
      (suppressed = zones → s.fire g ref e late only = told s .suppressed) ∧
      (suppressed ≠ zones → s.refusesSession ask = true → s.fire g ref e late only = told s .tableFull) ∧
      (suppressed ≠ zones → s.refusesSession ask = false → ∃ n, (s.createSession ask).2 = some n ∧
        s.fire g ref e late only = told (s.createSession ask).1 (.session n))) ∧
  ∀ (b : BuildingId) (s : State),
    (s.power.power = .normal → s.bellBuildingState b .quiet =
      (List.finRange 8).foldl (fun u g => State.resumeRing b g u)
        (s.onBell fun r => { r with viewQuiet := r.viewQuiet.put b true })) ∧
    ∀ g : SchedId,
      let taken := s.onBell fun r => { r with resume := r.resume.put g ((r.resume.at g).put b none) }
      ((s.groupWork g).working = false ∨ (s.cal.groups.at g).resume = false ∨ (s.bell.resume.at g).at b = none →
        s.resumeRing b g = s) ∧
      ∀ ref e, (s.groupWork g).working = true → (s.cal.groups.at g).resume = true →
        (s.bell.resume.at g).at b = some ref → (s.bell.programs.at ref.program)[ref.index]? = some e →
        s.resumeRing b g = taken.fire g ref e (s.civil.sec - e.time) (some b)

/-- Date changes and time moves (R3, R7, R17, R22 to R25, R37, R38). A civil second boundary that carries a date change: today
becomes the new date, the overrides of dates before it are removed, and today's type, the day-quiet marks and every group's
program are those of the new date; every group is WORKING on it, its watermark at now. A time move is handed on only in
RUNNING with power NORMAL or RESERVE and time set. Across dates, or FIRST_SET, it does the same with the new civil time;
within a date the Calendar Unit stands and each WORKING group runs the watermark rule with the new second. Then the lines
take it, and the MOVE record gives cause, DST change and difference in eighths, 0 for FIRST_SET (that it comes last is log
entry 17). Where DST changes at a boundary, the move follows the boundary, from its reading to the new one. R38: for each
group, in ascending number (log entry 49), the entries of the old program above the old watermark and those of the new one
at or below the new watermark, now - grace - 1 or -1, are counted, and GROUP_SKIPPED says both where one is not 0; the quiet
set and the resume places are emptied; then the watermark rule runs. R36, R49: a selection handed to a group that works
another program on that date is a program switch, and any other hand-over does nothing. At a boundary the order Calendar Unit,
bells, lines is the model's choice (log entry 52), and that mirror and header come last is log entry 53. -/
def Obligations.DateChangesAndProgramSwitches : Prop :=
  let acrossDates (d now : Nat) (s : State) : State :=
    (List.finRange 8).foldl (fun u g => State.changeDate g d now u) (s.calDateChange d)
  let withinDate (now : Nat) (s : State) : State := (List.finRange 8).foldl (fun u g => State.runWatermark g now u) s
  let onDate (d now : Nat) (s t : State) : Prop :=
    t.cal = { s.cal with today := some d, todayType := some (t.cal.typeOf d)
                         overrides := s.cal.overrides.filter fun o => decide (d ≤ o.day) } ∧
    (∀ z, (t.zone z).dayQuiet = true ↔ ∃ q, s.cal.quietGroup.at (t.cal.typeOf d) = some q ∧
      Mask.has (s.router.groups.at q) z.val = true) ∧
    ∀ g : SchedId, (t.groupWork g).working = true ∧ (t.groupWork g).date = some d ∧
      (t.groupWork g).program = (s.cal.groups.at g).progMap.at (t.cal.typeOf d) ∧ (t.groupWork g).watermark = now
  (∀ s : State, s.up = true → s.time.boundaryDue = true → s.time.quality ≠ .unset →
    let new := s.time.stdSec + 1
    let shift := s.time.dst.seconds s.time.dstInForce
    let now := (new + shift) % 86400
    let d := (new + shift) / 86400
    let c : CivilTime := ⟨d, now, 0⟩
    let crosses : Prop := d ≠ (s.time.stdSec + shift) / 86400
    let flag := s.time.dst.inForceAt new
    let next := s.onTime TimeBase.nextSecond
    ∃ t, exec .standardSecondBoundary s = .next t ∧
      (crosses → flag = s.time.dstInForce → onDate d now s t ∧
        t = (((acrossDates d now next).lineBoundary c).whole.publish).keep) ∧
      (flag ≠ s.time.dstInForce → crosses ∨ s.time.dst.isInstant new = true →
        let civil := new + s.time.dst.seconds flag
        let handed := if crosses then acrossDates d now next else withinDate now next
        t = ((((handed.lineBoundary c).onTime fun r => { r with dstInForce := flag }).handMove
          ⟨some c, ⟨civil / 86400, civil % 86400, 0⟩, if flag then .dstStart else .dstEnd,
            if flag then .nowInForce else .noLonger⟩).whole.publish).keep)) ∧
  (∀ (m : TimeMove) (s : State),
    let t := s.handMove m
    let handed : Prop := s.up = true ∧ s.time.quality ≠ .unset
    let within : Prop := ∃ o, m.old = some o ∧ o.day = m.new.day
    let count (c : CivilTime) : Int := 8 * (86400 * c.day + c.sec) + c.eighth
    let told (u : State) : State := u.lineMove.report (.timeMoved m.cause m.dst
      (match m.old with | some o => count m.new - count o | none => 0))
    (¬ handed → t = s) ∧
    (handed → within → t = told (withinDate m.new.sec s) ∧ t.cal = s.cal ∧
      (∀ z, (t.zone z).dayQuiet = (s.zone z).dayQuiet) ∧
      ∀ g : SchedId, let r := s.groupWork g
        (t.groupWork g).working = r.working ∧ (t.groupWork g).date = r.date ∧ (t.groupWork g).program = r.program ∧
        (t.groupWork g).watermark = if r.working = true then max r.watermark m.new.sec else r.watermark) ∧
    (handed → ¬ within → t = told (acrossDates m.new.day m.new.sec s) ∧ onDate m.new.day m.new.sec s t)) ∧
  (∀ (g : SchedId) (d now : Nat) (s : State),
    let r := s.groupWork g
    let entries (p : Option ProgId) : List Entry := match p with
      | some q => s.bell.programs.at q
      | none => []
    let program := (s.cal.groups.at g).progMap.at (s.cal.typeOf d)
    let mark : Int := max ((now : Int) - (s.cal.groups.at g).grace - 1) (-1)
    let remainder := if r.working = true then ((entries r.program).filter fun e => decide (r.watermark < e.time)).length
      else 0
    let passed := ((entries program).filter fun e => decide ((e.time : Int) ≤ mark)).length
    ∃ u, SoundSide s u ∧ Pages s u ∧ (s.quietMarksRight → u.quietMarksRight) ∧
      u.bell = { s.bell with
        groups := s.bell.groups.put g ⟨true, some d, mark, program, 0⟩
        resume := s.bell.resume.put g (Tab.all 6 none) } ∧
      s.changeDate g d now = (if remainder = 0 ∧ passed = 0 then u
        else u.report (.groupSkipped g d program remainder passed)).runWatermark g now) ∧
  ∀ (g : SchedId) (d : Nat) (selection : Option ProgId) (s : State),
    let r := s.groupWork g
    let switches : Prop := r.working = true ∧ r.date = some d ∧ r.program ≠ selection
    let t := s.takeSelection g d selection
    (¬ switches → t = s) ∧
    (switches → SoundSide s t ∧ Pages s t ∧ (s.quietMarksRight → t.quietMarksRight) ∧ t.bell = { s.bell with
      groups := s.bell.groups.put g { r with program := selection, quiet := 0, watermark := max r.watermark s.civil.sec }
      resume := s.bell.resume.put g (Tab.all 6 none) })

/-! ### Zones (chapter 4) -/

/-- ADMISSION_SET (R60 to R62) and OVERRIDE_EXPIRY (R63). With a mode, every zone of the target takes the override, with its
expiry, and its mode; with RELEASE, whichever of the two commands carries it, the overrides of the target's zones are
removed; no other zone's override changes, modes are judged afresh, and the answer counts zones, zones whose effective
mode changed, and removals, and gives the expiry, for a target of no zone too (the model's choice, log entry 65). A target or an action that does not exist is answered BAD_PARAM. An override whose expiry
has come is removed from its zone; before its expiry nothing happens (log entry 11). -/
def Obligations.HostOverridesPlacedReleasedAndExpired : Prop :=
  (∀ (i : CellId) (tag : Word) (target : TargetParam) (action : Byte) (minutes : Word) (s : State), s.takes i →
    let c : Instr := .admissionSet i tag target action minutes
    let named := targetOf target.kind.toNat target.group.toNat target.mask
    (∀ (g : Target) (m : Mode), s.modesRight → named = some g → modeOf action.toNat = some m →
      let zones := s.resolve g
      let n := min minutes.toNat 1440
      let expiry : Option Nat := if n = 0 then none else some (s.time.elapsed + 480 * n)
      let changed := ((Mask.members zones).filter fun z => (s.zone z).effective != m).length
      let table : Tab Zone 64 := Tab.tabulate 64 fun z =>
        if Mask.has zones z.val then { s.zone z with override := some ⟨m, expiry⟩ } else s.zone z
      let placed : State := s.onRouter fun r => { r with zones := table }
      ∃ t, exec c s = .next t ∧ SoundSide placed t ∧ DrillSide s t ∧
        (∀ z : ZoneId, Mask.has zones z.val = true → (t.zone z).effective = m) ∧
        Answered i .admissionSet tag ⟨if 1440 < minutes.toNat then .clamped else .ok, 0,
          leBytes 1 (Mask.count zones) ++ leBytes 1 changed ++ [0, 0, 0, 0, 0, 0] ++ leBytes 5 (expiry.getD 0)⟩ s t) ∧
    (named = none ∨ 4 < action.toNat →
      ∃ t, exec c s = .next t ∧ Answered i .admissionSet tag ⟨.badParam, 0, []⟩ s t ∧ HostSide s t)) ∧
  (∀ (i : CellId) (tag : Word) (target : TargetParam) (c : Instr) (s : State) (g : Target), s.takes i → s.modesRight →
    (c = .admissionRelease i tag target ∨ ∃ minutes, c = .admissionSet i tag target 4 minutes) →
    targetOf target.kind.toNat target.group.toNat target.mask = some g →
    let zones := s.resolve g
    let held := (Mask.members zones).filter fun z => (s.zone z).override.isSome
    let freed (z : ZoneId) : Zone := { s.zone z with override := none }
    let changed := (held.filter fun z => (freed z).compute != (s.zone z).effective).length
    let table : Tab Zone 64 := Tab.tabulate 64 fun z => if Mask.has zones z.val then freed z else s.zone z
    let released : State := s.onRouter fun r => { r with zones := table }
    ∃ t, exec c s = .next t ∧ SoundSide released t ∧ DrillSide s t ∧ t.modesRight ∧
      Answered i .admissionSet tag ⟨.ok, 0,
        leBytes 1 (Mask.count zones) ++ leBytes 1 changed ++ leBytes 1 held.length ++
          [0, 0, 0, 0, 0, 0, 0, 0, 0, 0]⟩ s t) ∧
  (∀ (i : CellId) (tag : Word) (target : TargetParam) (s : State), s.takes i →
    targetOf target.kind.toNat target.group.toNat target.mask = none →
    ∃ t, exec (.admissionRelease i tag target) s = .next t ∧ Answered i .admissionSet tag ⟨.badParam, 0, []⟩ s t ∧
      HostSide s t) ∧
  ∀ (z : ZoneId) (s : State),
    (∀ m e, s.up = true → s.modesRight → (s.zone z).override = some ⟨m, some e⟩ → e ≤ s.time.elapsed →
      ∃ t, exec (.overrideExpiry z) s = .next t ∧ t.modesRight ∧ (t.zone z).override = none ∧
        Sounded (s.onZone z fun r => { r with override := none }) t) ∧
    (s.up = false ∨ (∀ m e, (s.zone z).override = some ⟨m, some e⟩ → s.time.elapsed < e) →
      exec (.overrideExpiry z) s = .next s.keep)

/-! ### Sessions (chapter 5) -/

/-- R69, R70, R54, R71: a session request that is not refused takes the lowest-numbered free record and the next creation
sequence. The record is filled QUEUED with what is asked for; its requested zones are the resolved target, with those the
origin hands over as suppressed, and for a PAGE the monitor zone of each building that these touch (an added zone brings in
no other, log entry 50). A requested zone is refused by the first reason that applies: SUPPRESSED, by the origin or for a
BELL or MESSAGE whose building is not QUIET in the view; NOT_ADMITTED, by its effective mode; FAULTED. The others are
judged, ascending; the sets are settled, the new session last; and, if it is still there, its source is asked for. A refused
zone stays refused and, where zones and sessions agree (the invariant of SessionsZonesAndSourcesAgree), is in no other set; what the record then holds is the session asked for, unless it has ended; no
other session is made. A refused request makes nothing. -/
def Obligations.NewSessionTakesTheLowestFreeRecord : Prop :=
  ∀ (a : SessionAsk) (s : State),
    let target : ZoneSet := a.zones ||| a.suppressed
    let wanted (z : ZoneId) : Bool := Mask.has target z.val || (a.cls == .page && (List.finRange 6).any fun b =>
      s.router.monitor.at b == some z && s.router.maps.at b &&& target != 0)
    let suppressed (z : ZoneId) : Bool := Mask.has a.suppressed z.val ||
      ((a.cls == .bell || a.cls == .message) && s.router.view.at (s.zone z).building != .quiet)
    let admitted (z : ZoneId) : Bool := match (s.zone z).effective with
      | .off => false
      | .emergencyOnly => decide (a.cls.num ≤ 2)
      | .signals => decide (a.cls.num ≤ 3)
      | .full => true
    let faulted (z : ZoneId) : Bool := (s.zone z).fault
    (∀ n, s.refusesSession a = false → s.sess n = none → (∀ m, m < n → s.sess m ≠ none) →
      let t := (s.createSession a).1
      (s.createSession a).2 = some n ∧ t.router.seq = s.router.seq + 1 ∧
      (∃ r : Session,
        r = { cls := a.cls, origin := a.origin, source := a.source, state := .queued, duration := a.duration
              deferLimit := a.deferLimit, createdAt := s.time.elapsed, seq := s.router.seq, activeAt := none
              pausedAt := none, requested := r.requested, connected := 0, waiting := 0, deferred := 0, held := 0, lost := 0
              refNotAdmitted := r.refNotAdmitted, refFaulted := r.refFaulted, refSuppressed := r.refSuppressed, ever := 0 } ∧
        (∀ z : ZoneId, Mask.has r.requested z.val = wanted z ∧
          Mask.has r.refSuppressed z.val = (wanted z && suppressed z) ∧
          Mask.has r.refNotAdmitted z.val = (wanted z && !suppressed z && !admitted z) ∧
          Mask.has r.refFaulted z.val = (wanted z && !suppressed z && admitted z && faulted z)) ∧
        (∃ v, v = (((List.finRange 64).filter fun z => wanted z && !suppressed z && admitted z && !faulted z).foldl
            (fun u z => State.judge true n z u)
            (((s.setSess n (some r)).onRouter fun q => { q with seq := q.seq + 1 }).touch n)).settleFrom (some n) 17 ∧
          (v.sess n = none → t = v) ∧
          ∀ y, v.sess n = some y → (∀ c, a.source = .console c → t = v.onSess n fun x =>
              { x with state := .active, activeAt := some s.time.elapsed }) ∧
            (∀ q, a.source = .tone q → t = v.askGen n) ∧ ∀ p m k, a.source = .player p m k → t = v.askPlayer n p) ∧
        ∀ x, t.sess n = some x → x.ident = r.ident ∧
          (s.zonesAgree → ∀ z, (suppressed z || !admitted z || faulted z) = true →
            Mask.has (x.connected ||| x.waiting ||| x.deferred ||| x.held ||| x.lost) z.val = false)) ∧
      ∀ m y, m ≠ n → t.sess m = some y → ∃ x, s.sess m = some x ∧ y.ident = x.ident) ∧
    (s.refusesSession a = true → s.createSession a = (s, none)) ∧
    ((∀ n, s.sess n ≠ none) → s.refusesSession a = true)

/-- R64, R72, R73, R74, R77: session n judged on zone z. A zone at fault admits no class (R64): nothing but n's own sets
moves; only a defer limit can meet one, and that n then loses it is the model's choice (log entry 59). Otherwise a free zone
is taken. Against an occupant of lower priority a BELL with a
defer limit defers to a PAGE or MESSAGE; otherwise n takes the zone, and a PAGE or MESSAGE occupant is held there: a free
held slot takes it, and one that names a session keeps the one of the two of higher priority, and between equal classes the
older, the other waiting; an occupant of another class loses the zone. Against an equal or higher one, PAGE and MESSAGE wait, and
other classes lose the zone. -/
def Obligations.ZoneJudgedByPriority : Prop :=
  ∀ (mayDefer : Bool) (n : SessId) (z : ZoneId) (x : Session) (s : State), s.sess n = some x →
    let t := s.judge mayDefer n z
    ((s.zone z).fault = true → (∀ w : ZoneId, t.zone w = s.zone w) ∧ (∀ m, m ≠ n → t.sess m = s.sess m) ∧
      ∃ x', t.sess n = some x' ∧ Mask.has x'.lost z.val = true ∧ Mask.has x'.connected z.val = false ∧
        Mask.has x'.deferred z.val = false ∧ Mask.has x'.waiting z.val = false ∧ x'.ever = x.ever) ∧
    ((s.zone z).fault = false → (s.zone z).occupant = none → (t.zone z).occupant = some n ∧
      ∃ x', t.sess n = some x' ∧ Mask.has x'.connected z.val = true ∧ Mask.has x'.ever z.val = true) ∧
    ∀ (o : SessId) (y : Session), (s.zone z).fault = false → (s.zone z).occupant = some o → s.sess o = some y → o ≠ n →
      let defers : Prop := mayDefer = true ∧ x.cls = .bell ∧ x.deferLimit ≠ 0 ∧ (y.cls = .page ∨ y.cls = .message)
      (x.cls.num < y.cls.num → defers → (t.zone z) = s.zone z ∧ t.sess o = some y ∧
        ∃ x', t.sess n = some x' ∧ Mask.has x'.deferred z.val = true ∧ Mask.has x'.connected z.val = false) ∧
      (x.cls.num < y.cls.num → ¬ defers → (y.cls = .page ∨ y.cls = .message) → (s.zone z).held = none →
        (t.zone z).occupant = some n ∧ (t.zone z).held = some o ∧
        (∃ x', t.sess n = some x' ∧ Mask.has x'.connected z.val = true ∧ Mask.has x'.ever z.val = true) ∧
        ∃ y', t.sess o = some y' ∧ Mask.has y'.held z.val = true ∧ Mask.has y'.connected z.val = false) ∧
      (∀ h w, x.cls.num < y.cls.num → ¬ defers → (y.cls = .page ∨ y.cls = .message) → (s.zone z).held = some h →
        s.sess h = some w → h ≠ o → h ≠ n →
        let stays : Prop := y.cls.num < w.cls.num ∨ y.cls = w.cls ∧ y.seq < w.seq
        (t.zone z).occupant = some n ∧
        (∃ x', t.sess n = some x' ∧ Mask.has x'.connected z.val = true ∧ Mask.has x'.ever z.val = true) ∧
        (stays → (t.zone z).held = some o ∧
          (∃ y', t.sess o = some y' ∧ Mask.has y'.held z.val = true ∧ Mask.has y'.connected z.val = false) ∧
          ∃ w', t.sess h = some w' ∧ Mask.has w'.waiting z.val = true ∧ Mask.has w'.held z.val = false) ∧
        (¬ stays → (t.zone z).held = some h ∧ t.sess h = some w ∧
          ∃ y', t.sess o = some y' ∧ Mask.has y'.waiting z.val = true ∧ Mask.has y'.connected z.val = false)) ∧
      (x.cls.num < y.cls.num → y.cls ≠ .page → y.cls ≠ .message →
        (t.zone z).occupant = some n ∧ (t.zone z).held = (s.zone z).held ∧
        (∃ x', t.sess n = some x' ∧ Mask.has x'.connected z.val = true ∧ Mask.has x'.ever z.val = true) ∧
        ∃ y', t.sess o = some y' ∧ Mask.has y'.lost z.val = true ∧ Mask.has y'.connected z.val = false) ∧
      (y.cls.num ≤ x.cls.num → t.zone z = s.zone z ∧ t.sess o = some y ∧ ∃ x', t.sess n = some x' ∧
        Mask.has x'.connected z.val = false ∧
        (Mask.has x'.waiting z.val = true ↔ x.cls = .page ∨ x.cls = .message) ∧
        (Mask.has x'.lost z.val = true ↔ x.cls ≠ .page ∧ x.cls ≠ .message))

/-- R75, R76: a zone released and a zone re-judged. A release with the fault flag set does nothing; a held session
reconnects; otherwise the zone is offered to the sessions that wait for it and the ACTIVE ones that have it deferred: those
its mode, its building's state or its fault refuse lose it, and of the others the one of highest class, and of equal classes
the oldest, connects. A re-judgement puts the occupant and the held session of a faulted zone into waiting, takes the zone
from every session with a claim on it that its mode or its building no longer admits, releases the zone if it lost its
occupant, or offers it if it had none, both only without a fault, and settles the sessions touched. -/
def Obligations.ZonesAreReleasedAndRejudged : Prop :=
  let admits (m : Mode) (c : Cls) : Prop := match m with
    | .off => False
    | .emergencyOnly => c.num ≤ 2
    | .signals => c.num ≤ 3
    | .full => True
  let barred (s : State) (z : ZoneId) (x : Session) : Prop := ¬ admits (s.zone z).effective x.cls ∨
    (x.cls = .bell ∨ x.cls = .message) ∧ s.router.view.at (s.zone z).building ≠ .quiet
  (∀ (z : ZoneId) (s : State),
    let t := s.releaseZone z
    ((s.zone z).fault = true → t = s) ∧
    (∀ h x, (s.zone z).fault = false → (s.zone z).held = some h → s.sess h = some x →
      t = ((s.setSess h (some (x.moveTo .connected z))).onZone z fun r =>
        { r with held := none, occupant := some h }).onWork fun _ => t.work) ∧
    ((s.zone z).fault = false → (s.zone z).held = none →
      let asks (n : SessId) (x : Session) : Prop := s.sess n = some x ∧
        (Mask.has x.waiting z.val = true ∨ x.state = .active ∧ Mask.has x.deferred z.val = true)
      let wins (n : SessId) (x : Session) : Prop := asks n x ∧ ¬ barred s z x ∧
        ∀ m y, m ≠ n → asks m y → ¬ barred s z y →
          x.cls.num < y.cls.num ∨ x.cls = y.cls ∧ x.seq < y.seq
      (∀ n x, asks n x → barred s z x → t.sess n = some (x.moveTo .lost z)) ∧
      (∀ n x, wins n x → t.sess n = some (x.moveTo .connected z) ∧
        t = { s with router := { s.router with
          sessions := t.router.sessions, zones := s.router.zones.put z { s.zone z with occupant := some n } }
                     work := t.work } ∧
        ∀ m, m ≠ n → (∀ y, asks m y → ¬ barred s z y) → t.sess m = s.sess m) ∧
      ((∀ n x, asks n x → barred s z x) →
        t = { s with router := { s.router with sessions := t.router.sessions }, work := t.work } ∧
        ∀ n, (∀ x, ¬ asks n x) → t.sess n = s.sess n))) ∧
  ∀ (z : ZoneId) (s : State), ∃ u : State,
    let faulted : Prop := (s.zone z).fault = true
    let left (o : Option SessId) (n : SessId) : Prop := o = some n ∧ ¬ faulted ∧
      ∀ x, s.sess n = some x → Mask.has (x.connected ||| x.held ||| x.waiting ||| x.deferred) z.val = true → ¬ barred s z x
    s.rejudge z =
      (if faulted ∨ (u.zone z).occupant ≠ none then u else if (s.zone z).occupant ≠ none then u.releaseZone z
        else u.offer z).settle ∧
    (∀ n, (u.zone z).occupant = some n ↔ left (s.zone z).occupant n) ∧
    (∀ n, (u.zone z).held = some n ↔ left (s.zone z).held n) ∧
    (∀ n, s.sess n = none → u.sess n = none) ∧
    (∀ n x, s.sess n = some x →
      let gives : Prop := faulted ∧ ((s.zone z).occupant = some n ∨ (s.zone z).held = some n)
      let claims : Prop := gives ∨ Mask.has (x.connected ||| x.held ||| x.waiting ||| x.deferred) z.val = true
      (claims ∧ barred s z x → u.sess n = some (x.moveTo .lost z)) ∧
      (gives ∧ ¬ barred s z x → u.sess n = some (x.moveTo .waiting z)) ∧
      (¬ gives ∧ ¬ (claims ∧ barred s z x) → u.sess n = some x)) ∧
    u = { s with router := { s.router with
      sessions := u.router.sessions, zones := s.router.zones.put z (u.zone z) }, work := u.work } ∧
    u.zone z = { s.zone z with occupant := (u.zone z).occupant, held := (u.zone z).held }

/-- R91, R82: the sessions touched are settled. Each is judged for its pause: a MESSAGE with a player source becomes PAUSED,
with PAUSE on its player, when it is ACTIVE with every zone it has held elsewhere, and ACTIVE again, with PAUSE off, when that
no longer holds. Then the first that has no zone connected, waiting, deferred or held ends NO_ZONES, whole, and the
settling goes on; when none is left the sessions touched are none. R91 orders neither: that in each round the pause of every
session touched is judged before one ends, and that the first in the list of them, which the events keep ascending, ends
first, is the model's choice (log entry 22). -/
def Obligations.TouchedSessionsAreSettled : Prop :=
  (∀ (n : SessId) (s : State),
    (∀ x p m r, s.sess n = some x → x.cls = .message → x.source = .player p m r →
      let parked : Prop := x.connected = 0 ∧ x.held ≠ 0
      (x.state = .active → parked → s.judgePause n =
        (s.setSess n (some { x with state := .paused, pausedAt := some s.time.elapsed })).onPlayer p
          fun q => { q with pause := true }) ∧
      (x.state = .paused → ¬ parked → s.judgePause n =
        (s.setSess n (some { x with state := .active, pausedAt := none })).onPlayer p
          fun q => { q with pause := false }) ∧
      (x.state = .queued ∨ (x.state = .active ∧ ¬ parked) ∨ (x.state = .paused ∧ parked) → s.judgePause n = s)) ∧
    ((∀ x, s.sess n = some x → x.cls ≠ .message ∨ ∀ p m r, x.source ≠ .player p m r) → s.judgePause n = s)) ∧
  ∀ s : State,
    let u := s.work.touched.foldl (fun v n => State.judgePause n v) s
    let spent (n : SessId) : Prop :=
      ∃ x, u.sess n = some x ∧ x.connected = 0 ∧ x.waiting = 0 ∧ x.deferred = 0 ∧ x.held = 0
    ((∀ n ∈ s.work.touched, ¬ spent n) → s.settle = u.onWork fun w => { w with touched := [] }) ∧
    ∀ before n after, s.work.touched = before ++ n :: after → (∀ m ∈ before, ¬ spent m) → spent n →
      s.settle = (u.endOne n .noZones).settle ∧ Departed n s (u.endOne n .noZones)

/-- R89, R90, R99, R80, R84, R108: session n ends. It is out of its queues, slots, claims and the table, its connected zones
are released, ascending, and its source is returned, before any record is handed over: no generator, player or console has
it, and a player that it leaves, not cut, goes to the head of its queue. Then SESSION_END is handed over, and
SESSION_UNDELIVERED for each reason that has zones, in the order of R90's table, of the requested zones it never
connected. Then its building is told: of one that is standing down the end is noted, and made once the event is dealt
with; another loses its signal, and wants it again after a CUT. Only then are the sessions it touched settled: that these
settle first, and the stand-down ends after them, is the model's choice (log entry 22). At the
changes to RESERVE and to RETAINED (R92), and where a SITE section is installed (R67), the sessions concerned end one
after another, in ascending number; that the cue buses keep their numbers in RETAINED is log entry 55. -/
def Obligations.SessionsEndInOrder : Prop :=
  (∀ (n : SessId) (cause : EndCause) (x : Session) (s : State), s.sess n = some x →
    s.endSession n cause = (s.endOne n cause).settle ∧
    ∃ u : State, u.sess n = none ∧ u.rh = s.rh ∧ u.mem = s.mem ∧ u.drill = s.drill ∧ u.bell = s.bell ∧ Sounded s u ∧
      n ∉ u.tone.waitList ∧ (∀ p, n ∉ (u.player p).queue) ∧ (∀ c, (u.console c).session ≠ some n) ∧
      (s.zonesAgree → ∀ z, (u.zone z).occupant ≠ some n ∧ (u.zone z).held ≠ some n ∧
        (Mask.has x.connected z.val = false → (u.zone z).occupant = (s.zone z).occupant)) ∧
      (s.soundsRight → ∀ g, n ∉ (u.gen g).users) ∧
      (∀ p m r, x.source = .player p m r → (s.player p).current = some n →
        (u.player p).current ≠ some n ∧
        (s.work.cutPlayer = some p ∨ (s.player p).queue = [] → (u.player p).current = none ∧
          (u.player p).pause = false ∧ (u.player p).cueBus = (s.player p).cueBus) ∧
        ∀ k rest y q m' r', s.work.cutPlayer ≠ some p → (s.player p).queue = k :: rest → n ∉ k :: rest →
          s.sess k = some y → y.source = .player q m' r' → (u.player p).current = some k ∧
          (u.player p).queue = rest ∧ (u.player p).cueBus = m') ∧
      let missed (m : ZoneSet) : ZoneSet := x.requested &&& ~~~x.ever &&& m
      let records : List Report := .sessionEnd n x.cls cause x.ever ::
        (([(.notAdmitted, x.refNotAdmitted), (.faulted, x.refFaulted), (.suppressed, x.refSuppressed), (.lost, x.lost),
          (.waiting, x.waiting), (.deferredOut, x.deferred)] : List (UndeliveredReason × ZoneSet)).filter
            fun r => missed r.2 != 0).map fun r => .sessionUndelivered n x.cls r.1 (missed r.2)
      let told := (records.foldl (fun v r => State.report r v) u).onWork fun w => { w with ended := true }
      let quiet : Prop := ∀ b k, x.origin = .building b k →
        (s.building b).signal ≠ some n ∨ cause = .building ∨ cause = .power
      (quiet → s.endOne n cause = told) ∧
      ∀ b k, x.origin = .building b k → ¬ quiet →
        ((s.building b).state = .standingDown → s.endOne n cause = (told.onBuilding b fun r =>
          { r with signal := none }).onWork fun w => { w with standDowns := w.standDowns ++ [b] }) ∧
        ((s.building b).state ≠ .standingDown → s.endOne n cause = told.onBuilding b fun r =>
          { r with signal := none, wanted := r.wanted || cause == .cut })) ∧
  ∀ s : State,
    let named (p : Cls → Bool) : List SessId := (List.finRange 16).filter fun n => match s.sess n with
      | some x => p x.cls
      | none => false
    let ended (p : Cls → Bool) (cause : EndCause) : State := (named p).foldl (fun u n => u.endSession n cause) s
    s.sessionsReserve = ended (fun c => c == .bell || c == .message) .power ∧
    (∃ u, u = ended (fun _ => true) .power ∧ s.sessionsRetained = { u with router := s.sessionsRetained.router } ∧
      ∀ p, s.sessionsRetained.player p = { u.player p with pause := false }) ∧
    ∀ d, let u := ended (fun _ => true) .reconfigured
      (s.installSite d).rh = u.rh ∧ (s.installSite d).mem = u.mem ∧ ∀ n, (s.installSite d).sess n = none

/-- SESSION_DURATION_END, PAUSE_ABANDON, WAIT_LIST_GIVE_UP, CUE_TIMEOUT and DEFER_LIMIT_EXPIRY (R78, R82, R102, R81, R77):
when its instant has come, the session ends with the cause the rule gives it, as R89 ends a session, and the event is
carried out whole; its record holds it no longer. At a BELL's defer limit every zone still deferred is judged afresh with
the deferral case left out, in ascending zone number, one at fault being lost (R64, log entry 59). Before its instant, or
where what it names is not there, none of them does anything (log entry 11). -/
def Obligations.SessionsEndAndDeferAtTheirInstants : Prop :=
  let ends (c : Instr) (n : SessId) (cause : EndCause) (s : State) : Prop :=
    ∃ t, exec c s = .next t ∧ t = (s.endSession n cause).whole.keep ∧ Departed n s t ∧ Sounded s t
  (∀ (n : SessId) (s : State) (x : Session), s.sess n = some x →
    (∀ since d, s.up = true → x.activeAt = some since → x.duration = some d → since + d ≤ s.time.elapsed →
      ends (.sessionDurationEnd n) n .duration s) ∧
    (s.up = false ∨ x.activeAt = none ∨ x.duration = none ∨
      (∃ since d, x.activeAt = some since ∧ x.duration = some d ∧ s.time.elapsed < since + d) →
      exec (.sessionDurationEnd n) s = .next s.keep) ∧
    (∀ since, s.up = true → x.state = .paused → x.pausedAt = some since → since + 960 ≤ s.time.elapsed →
      ends (.pauseAbandon n) n .abandoned s) ∧
    (s.up = false ∨ x.state ≠ .paused ∨ (∃ since, x.pausedAt = some since ∧ s.time.elapsed < since + 960) →
      exec (.pauseAbandon n) s = .next s.keep) ∧
    (s.up = true → n ∈ s.tone.waitList → x.cls = .bell → x.createdAt + x.deferLimit ≤ s.time.elapsed →
      ends (.waitListGiveUp n) n .noSource s) ∧
    (s.up = false ∨ n ∉ s.tone.waitList ∨ x.cls ≠ .bell ∨ s.time.elapsed < x.createdAt + x.deferLimit →
      exec (.waitListGiveUp n) s = .next s.keep) ∧
    (s.up = true → x.cls = .bell → x.deferred ≠ 0 → x.createdAt + x.deferLimit ≤ s.time.elapsed →
      ∃ t, exec (.deferLimitExpiry n) s = .next t ∧
        t = ((Mask.members x.deferred).foldl (fun u z => State.judge false n z u) s).settle.whole.keep ∧ Sounded s t) ∧
    (s.up = false ∨ x.cls ≠ .bell ∨ x.deferred = 0 ∨ s.time.elapsed < x.createdAt + x.deferLimit →
      exec (.deferLimitExpiry n) s = .next s.keep)) ∧
  (∀ (n : SessId) (s : State), s.sess n = none → ∀ c : Instr,
    c ∈ [.sessionDurationEnd n, .pauseAbandon n, .waitListGiveUp n, .deferLimitExpiry n] → exec c s = .next s.keep) ∧
  ∀ (p : PlayerId) (s : State),
    (∀ n since, s.up = true → (s.player p).current = some n → (s.player p).strobeAt = some since →
      since + 16 ≤ s.time.elapsed → ((s.player p).pauseAtLast = true ∨ Mask.has s.pins.playing p.val = false) →
      ends (.cueTimeout p) n .noPlayer s) ∧
    (s.up = false ∨ (s.player p).current = none ∨ (s.player p).strobeAt = none ∨
      (∃ since, (s.player p).strobeAt = some since ∧ s.time.elapsed < since + 16) →
      exec (.cueTimeout p) s = .next s.keep)

/-- PLAYING_RISE and PLAYING_FALL (R81): a sample high taken since the strobe, at a boundary without PAUSE, starts the
repetition; one that stood when the strobe was given does not, nor one taken under PAUSE, whatever PAUSE is when the command
comes (log entry 46); a sample low after the start ends the repetition, and the
next is cued, or after the last the session ends PLAYER_DONE. R80, R81: a session that asks for a player without a
current session is granted it, with its message on the cue bus and a strobe; one of higher class than the current
session cuts it and is granted the player; any other joins the queue behind those of its class and above, and is refused
beforehand where the queue holds 8; that a CUE which cuts is not refused for a queue of 8, against R42's words, is log entry
64. A player that loses its session grants the head of its queue. -/
def Obligations.PlayersAreQueuedCuedAndRepeated : Prop :=
  (∀ (p : PlayerId) (n : SessId) (s : State), s.up = true → (s.player p).current = some n →
    ((s.player p).pauseAtLast = true ∨ Mask.has s.pins.playing p.val = false →
      exec (.playingRise p) s = .next s.keep) ∧
    (∀ at_, (s.player p).strobeAt = some at_ → (s.player p).pauseAtLast = false → Mask.has s.pins.playing p.val = true →
      (at_ < s.time.elapsed → exec (.playingRise p) s =
        .next (s.onPlayer p fun r => { r with started := true, strobeAt := none }).keep) ∧
      (s.time.elapsed ≤ at_ → exec (.playingRise p) s = .next s.keep)) ∧
    ((s.player p).started = true → Mask.has s.pins.playing p.val = false →
      (0 < (s.player p).repsLeft → exec (.playingFall p) s = .next (s.onPlayer p fun r =>
        { r with repsLeft := r.repsLeft - 1, strobeAt := some s.time.elapsed, started := false }).keep) ∧
      ((s.player p).repsLeft = 0 → ∃ t, exec (.playingFall p) s = .next t ∧
        t = (s.endSession n .playerDone).whole.keep ∧ Departed n s t ∧ Sounded s t))) ∧
  (∀ (p : PlayerId) (n : SessId) (x : Session) (m : Byte) (reps : Nat) (s : State), s.sess n = some x →
    x.source = .player p m reps →
    let granted (u : State) : State := (((u.onPlayer p fun r => { r with
      current := some n, repsLeft := reps - 1, pause := false, cueBus := m, strobeAt := some s.time.elapsed
      started := false }).onSess n fun y => { y with state := .active, activeAt := some s.time.elapsed }).judgePause n)
    let behind (o : SessId) : Bool := match s.sess o with
      | some y => !decide (x.cls.num < y.cls.num)
      | none => true
    ((s.player p).current = none → s.askPlayer n p = granted s) ∧
    ∀ o y, (s.player p).current = some o → s.sess o = some y →
      (y.cls.num ≤ x.cls.num → s.askPlayer n p = s.onPlayer p fun r => { r with
        queue := r.queue.takeWhile behind ++ n :: r.queue.dropWhile behind }) ∧
      (x.cls.num < y.cls.num → ∃ u, s.askPlayer n p = u.grantPlayer p n ∧
        u = ((s.onWork fun w => { w with cutPlayer := some p }).endSession o .cut).onWork
          fun w => { w with cutPlayer := none }) ∧
      ∀ a : SessionAsk, a.cls = x.cls → a.source = .player p m reps → y.cls.num ≤ x.cls.num →
        8 ≤ (s.player p).queue.length → s.refusesSession a = true) ∧
  ∀ (p : PlayerId) (s : State), s.work.cutPlayer ≠ some p →
    let idle := s.onPlayer p fun r => { r with
      current := none, strobeAt := none, started := false, repsLeft := 0, pause := false }
    ((s.player p).queue = [] → s.leavePlayer p = idle) ∧
    ∀ n rest, (s.player p).queue = n :: rest →
      s.leavePlayer p = (idle.onPlayer p fun r => { r with queue := rest }).grantPlayer p n

/-- R79: a zone's selection is none without an occupant and for a session that is not ACTIVE, and otherwise the bus of the
session's generator, player or console. An event carried out whole leaves seen the selections as they then stand, and marks
a change where one differs from what was seen before it; the mark stays, so a selection that changes and changes back
within an eighth counts (that it is looked at after each event, and not within one, is log entry 58). At a boundary a frame
is to be sent where a change is marked, or a selection differs there from the ones seen; it carries the selections as they
stand, and the mark is gone. CROSSPOINT_FRAME latches it; without a frame to send it does nothing (log entry 11). -/
def Obligations.CrosspointFramesLatchTheBoundarysSelections : Prop :=
  let selects (s : State) (f : Tab (Option (Fin 8)) 64) : Prop := ∀ z : ZoneId,
    ((s.zone z).occupant = none → f.at z = none) ∧
    ∀ n, (s.zone z).occupant = some n →
      (s.sess n = none → f.at z = none) ∧
      ∀ x, s.sess n = some x →
        (x.state ≠ .active → f.at z = none) ∧
        (∀ q, x.state = .active → x.source = .tone q →
          (∀ g : GenId, n ∈ (s.gen g).users → (∀ h : GenId, h < g → n ∉ (s.gen h).users) →
            (f.at z).map Fin.val = some g.val) ∧
          ((∀ g : GenId, n ∉ (s.gen g).users) → f.at z = none)) ∧
        (∀ p m r, x.state = .active → x.source = .player p m r → (f.at z).map Fin.val = some (4 + p.val)) ∧
        (∀ c, x.state = .active → x.source = .console c → (f.at z).map Fin.val = some (6 + c.val))
  (∀ s : State, s.up = true →
    (∀ f, s.router.frame = some f →
      exec .crosspointFrame s = .next (s.onRouter fun r => { r with latched := f, frame := none }).keep) ∧
    (s.router.frame = none → exec .crosspointFrame s = .next s.keep)) ∧
  (∀ (s : State) (f : Tab (Option (Fin 8)) 64), s.up = true → selects s.whole f →
    s.whole.router.seen = f ∧
    (s.whole.router.changed = true ↔ s.router.changed = true ∨ ∃ z : ZoneId, s.router.seen.at z ≠ f.at z) ∧
    s.whole.router.frame = s.router.frame ∧ s.whole.router.latched = s.router.latched) ∧
  ∀ (s : State) (f : Tab (Option (Fin 8)) 64), s.up = true → selects s f →
    s.judgeFrame = s.onRouter fun r => { r with
      seen := f, changed := false
      frame := if r.changed = false ∧ ∀ z : ZoneId, r.seen.at z = f.at z then none else some f }
/-- EMERGENCY_KEY_CHANGE, PTT_PRESS and PTT_RELEASE (R83, R84): a key that has held its new level takes it; that this is
the second consecutive sample is log entry 15, and a key that has not does nothing (log entry 11). A press with
no target, or with a full table, sets the press-refused mark and makes no session; otherwise it makes the page, or the
alert where the emergency key and the ceiling give one, and keeps its number. A release clears the mark and ends the
session kept. CONSOLE_SET (R85): refused BAD_PARAM for a console, group or ceiling that does not exist; otherwise the
console takes the new target and ceiling, the answer gives the ones before, and nothing else changes. That the sweep count
stands is log entry 13, and that the detail of an answer OK is 0 is log entry 8. R84: the busy lamp is lit while the press was
refused, or the console's session waits for some zone and has none; it is dark where the part does not run, and in RETAINED. -/
def Obligations.ConsoleKeysAndConsoleSet : Prop :=
  (∀ (c : ConsoleId) (s : State),
    (s.up = false ∨ (s.console c).emerCount ≤ 1 → exec (.emergencyKeyChange c) s = .next s.keep) ∧
    (s.up = false ∨ (s.console c).pttCount ≤ 1 → exec (.pttPress c) s = .next s.keep ∧
      exec (.pttRelease c) s = .next s.keep) ∧
    (s.up = true → 2 ≤ (s.console c).emerCount → exec (.emergencyKeyChange c) s = .next
      (s.onConsole c fun r => { r with emergency := !r.emergency, emerCount := 0 }).keep) ∧
    (s.up = true → 2 ≤ (s.console c).pttCount → (s.console c).ptt = false →
      let pressed := s.onConsole c fun r => { r with ptt := true, pttCount := 0 }
      ((s.console c).target = none ∨ (∀ n, s.sess n ≠ none) → exec (.pttPress c) s = .next
        (pressed.onConsole c fun r => { r with refusedMark := true }).keep) ∧
      ∀ g n, (s.console c).target = some g → s.sess n = none → (∀ m, m < n → s.sess m ≠ none) →
        let ask : SessionAsk :=
          { cls := if (s.console c).emergency = true ∧ (s.console c).alertCeiling = true then .alert else .page
            origin := .console c, source := .console c, zones := s.router.groups.at g, suppressed := 0
            duration := none, deferLimit := 0 }
        let made := (pressed.createSession ask).1
        let kept : Option SessId := if (made.sess n).isSome then some n else none
        ∃ t, exec (.pttPress c) s = .next t ∧
          t = ((made.onConsole c fun r => { r with session := kept }).whole).keep ∧
          Sounded (pressed.onConsole c fun r => { r with session := kept }) t ∧ Departed n s t) ∧
    (s.up = true → 2 ≤ (s.console c).pttCount → (s.console c).ptt = true →
      let released := s.onConsole c fun r => { r with ptt := false, pttCount := 0, refusedMark := false }
      ((s.console c).session = none → exec (.pttRelease c) s = .next released.keep) ∧
      ∀ n, (s.console c).session = some n → ∃ t, exec (.pttRelease c) s = .next t ∧
        t = (released.endSession n .pttRelease).whole.keep ∧ Departed n s t ∧ Sounded released t)) ∧
  (∀ (i : CellId) (tag : Word) (console group ceiling : Byte) (s : State), s.takes i →
    let c : Instr := .consoleSet i tag console group ceiling
    let good : Prop := console.toNat ≤ 1 ∧ (group.toNat ≤ 127 ∨ group.toNat = 255) ∧
      (ceiling.toNat = 1 ∨ ceiling.toNat = 4)
    (¬ good → ∃ t, exec c s = .next t ∧ Answered i .consoleSet tag ⟨.badParam, 0, []⟩ s t ∧ HostSide s t) ∧
    ∀ k : ConsoleId, k.val = console.toNat → good → ∃ t, exec c s = .next t ∧
      Answered i .consoleSet tag ⟨.ok, 0, leBytes 1 (orNone (s.console k).target) ++
        [if (s.console k).alertCeiling then 1 else 4]⟩ s t ∧
      HostSide (s.onConsole k fun r =>
        { r with target := asFin 128 group.toNat, alertCeiling := decide (ceiling.toNat = 1) }) t) ∧
  ∀ (c : ConsoleId) (s : State), s.busyLamp c = true ↔ s.up = true ∧ ((s.console c).refusedMark = true ∨
    ∃ n x, (s.console c).session = some n ∧ s.sess n = some x ∧ x.connected = 0 ∧
      ∃ z : ZoneId, Mask.has x.waiting z.val = true)

/-- ANNOUNCE (R86, R87). EVACUATE is taken as ALERT, a tone's duration into 1..2400, a player's repeat count into 1..4 and the
defer limit down to 240, each answered CLAMPED; DRILL, a class above 5, a source kind above 1, a pattern above 7, a
player above 1 and a target that does not exist are answered BAD_PARAM; a BELL or MESSAGE outside NORMAL STATE; and a
request without room in the table or at its player TABLE_FULL. Otherwise a session of that class, source and
target is made, and the answer gives its number, its state, its zone counts and its ended mark; that a session ended
at its creation shows 0 for its state and for its connected and waiting counts, beside the refused count as counted, is log
entry 31. -/
def Obligations.AnnounceMakesASession : Prop :=
  ∀ (i : CellId) (tag : Word) (cls source which message repeats : Byte) (duration deferLimit : Word)
    (target : TargetParam) (s : State), s.takes i →
    let c : Instr := .announce i tag cls source which message repeats duration deferLimit target
    let refused (code : Code) : Prop :=
      ∃ t, exec c s = .next t ∧ Answered i .announce tag ⟨code, 0, []⟩ s t ∧ HostSide s t
    let goodClass : Prop := cls.toNat ≤ 5 ∧ cls.toNat ≠ 2
    let goodSource : Prop := source.toNat = 0 ∧ which.toNat ≤ 7 ∨ source.toNat = 1 ∧ which.toNat ≤ 1
    let named := targetOf target.kind.toNat target.group.toNat target.mask
    (¬ goodClass ∨ ¬ goodSource ∨ named = none → refused .badParam) ∧
    ∀ (k : Cls) (src : Source) (dur : Option Nat) (g : Target), goodClass → named = some g →
      k.num = (if cls.toNat = 0 then 1 else cls.toNat) →
      ((∃ q : PatternId, source.toNat = 0 ∧ q.val = which.toNat ∧ src = .tone q ∧
          dur = some (max 1 (min duration.toNat 2400))) ∨
        ∃ p : PlayerId, source.toNat = 1 ∧ p.val = which.toNat ∧
          src = .player p message (max 1 (min repeats.toNat 4)) ∧ dur = none) →
      let clamped : Prop := cls.toNat = 0 ∨ (source.toNat = 0 ∧ (duration.toNat = 0 ∨ 2400 < duration.toNat)) ∨
        (source.toNat = 1 ∧ (repeats.toNat = 0 ∨ 4 < repeats.toNat)) ∨ 240 < deferLimit.toNat
      let ask : SessionAsk :=
        { cls := k, origin := .request i tag, source := src, zones := s.resolve g, suppressed := 0
          duration := dur, deferLimit := min deferLimit.toNat 240 }
      let silent : Prop := (k = .bell ∨ k = .message) ∧ s.power.power ≠ .normal
      (silent → refused .state) ∧
      (¬ silent → s.refusesSession ask = true → refused .tableFull) ∧
      (¬ silent → s.refusesSession ask = false →
        ∃ (t : State) (n : SessId) (rest : List Byte) (code : Code), exec c s = .next t ∧ s.sess n = none ∧
          (∀ m, m < n → s.sess m ≠ none) ∧ SoundSide s t ∧ DrillSide s t ∧ Departed n s t ∧
          (clamped → code = .clamped) ∧ (¬ clamped → code = .ok) ∧
          Answered i .announce tag ⟨code, 0, leBytes 1 n.val ++ rest⟩ s t ∧
          let made := ((s.posted i .announce tag (announceParams cls source which message repeats duration deferLimit
            target)).createSession ask).1
          t = (made.whole.complete i 4 tag ⟨code, 0, leBytes 1 n.val ++ rest⟩).keep ∧
          (∀ x, made.sess n = some x → rest = leBytes 1 x.state.num ++ leBytes 1 (Mask.count x.connected) ++
            leBytes 1 (Mask.count (x.waiting ||| x.deferred)) ++ leBytes 1 (s.refusedCount ask) ++ [0]) ∧
          (made.sess n = none → rest = [0, 0, 0] ++ leBytes 1 (s.refusedCount ask) ++ [1]))

/-- CANCEL_BY_NUMBER and CANCEL_BY_TAG (R88): the named session ends CANCELLED, or every session a request with the tag made
does, in ascending number, the event is carried out whole, and the answer counts them. A session not named stays, where
nothing else is pending that ends sessions and it waits for no zone. A number that does not exist is answered BAD_PARAM,
a free record or a tag without a session NO_SESSION, and a building's session STATE. -/
def Obligations.CancelEndsSessions : Prop :=
  let stays (s t : State) (named : List SessId) : Prop :=
    s.noneDown → (∀ b, (s.building b).wanted = false) → s.work.touched = [] → ∀ m y, m ∉ named → s.sess m = some y →
      y.waiting = 0 → y.deferred = 0 → ∃ y', t.sess m = some y' ∧ y'.ident = y.ident
  (∀ (i : CellId) (tag : Word) (number : Byte) (s : State), s.takes i →
    let refused (code : Code) : Prop := ∃ t, exec (.cancelByNumber i tag number) s = .next t ∧
      Answered i .cancel tag ⟨code, 0, []⟩ s t ∧ HostSide s t
    (15 < number.toNat → refused .badParam) ∧
    ∀ n : SessId, n.val = number.toNat →
      (s.sess n = none → refused .noSession) ∧
      (∀ x b k, s.sess n = some x → x.origin = .building b k → refused .state) ∧
      (∀ x, s.sess n = some x → (∀ b k, x.origin ≠ .building b k) →
        ∃ t, exec (.cancelByNumber i tag number) s = .next t ∧
          t = ((((s.posted i .cancel tag (cancelParams 0 number 0)).endSession n .cancelled).whole).complete i 5 tag
            ⟨.ok, 0, [1]⟩).keep ∧
          Departed n s t ∧ SoundSide s t ∧ DrillSide s t ∧ stays s t [n] ∧ Answered i .cancel tag ⟨.ok, 0, [1]⟩ s t)) ∧
  ∀ (i : CellId) (tag wanted : Word) (s : State), s.takes i →
    let named := (List.finRange 16).filter fun n => match s.sess n with
      | some x => match x.origin with
        | .request _ g => g == wanted
        | _ => false
      | none => false
    (named = [] → ∃ t, exec (.cancelByTag i tag wanted) s = .next t ∧
      Answered i .cancel tag ⟨.noSession, 0, []⟩ s t ∧ HostSide s t) ∧
    (named ≠ [] → ∃ t, exec (.cancelByTag i tag wanted) s = .next t ∧
      t = (((named.foldl (fun u n => u.endSession n .cancelled) (s.posted i .cancel tag (cancelParams 1 0 wanted))).whole).complete
        i 5 tag ⟨.ok, 0, leBytes 1 named.length⟩).keep ∧
      (∀ n ∈ named, Departed n s t) ∧ SoundSide s t ∧ DrillSide s t ∧ stays s t named ∧
      Answered i .cancel tag ⟨.ok, 0, leBytes 1 named.length⟩ s t)

/-! ### Tones (chapter 6) -/

/-- PATTERN_PHASE_END (R95): a generator whose phase has run out goes on from the tone phase of a step to its silence,
or to the tone phase of the next step, the first following the last. A phase of no length is passed over, and so a step
without one whole, up to the first phase of some length, the one that has run out coming last; where no phase has a length
the output is silent. The tone A divider sounds first. A generator whose phase has not run out, or that is not PLAYING, goes on as it is (log entry 11). -/
def Obligations.PatternPhases : Prop :=
  ∀ (g : GenId) (s : State),
    let r := s.gen g
    let phaseOver : Prop := s.up = true ∧ r.users ≠ [] ∧ r.begun = true ∧ r.left = 0 ∧ r.copy ≠ []
    (¬ phaseOver → exec (.patternPhaseEnd g) s = .next s.keep) ∧
    (phaseOver → exec (.patternPhaseEnd g) s = .next (s.onGen g Generator.nextPhase).keep ∧
      (let n := r.copy.length
        let here : Nat := if r.onPhase = true then 2 * r.step else 2 * r.step + 1
        let long (p : Nat) : Nat := match r.copy[p / 2 % n]? with
          | some x => if p % 2 = 0 then x.on else x.off
          | none => 0
        r.step < n →
        (∀ k, 1 ≤ k → k ≤ 2 * n → long (here + k) ≠ 0 → (∀ j, 1 ≤ j → j < k → long (here + j) = 0) →
          r.nextPhase = { r with
            step := (here + k) / 2 % n, onPhase := decide ((here + k) % 2 = 0), left := long (here + k)
            divider := if (here + k) % 2 = 0 then (r.copy[(here + k) / 2 % n]?).map ToneStep.toneA else none }) ∧
        ((∀ k, 1 ≤ k → k ≤ 2 * n → long (here + k) = 0) → r.nextPhase = { r with divider := none, left := 0 })) ∧
      ∀ x y, r.copy[r.step]? = some x → r.copy[(r.step + 1) % r.copy.length]? = some y →
        (r.onPhase = true → x.off ≠ 0 → r.nextPhase = { r with onPhase := false, left := x.off, divider := none }) ∧
        ((r.onPhase = false ∨ x.off = 0) → y.on ≠ 0 → r.nextPhase =
          { r with step := (r.step + 1) % r.copy.length, onPhase := true, left := y.on, divider := some y.toneA }) ∧
        ((r.onPhase = false ∨ x.off = 0) → y.on = 0 → y.off ≠ 0 → r.nextPhase =
          { r with step := (r.step + 1) % r.copy.length, onPhase := false, left := y.off, divider := none }))

/-- R99 to R102: a session of class c asks for a generator for its pattern. EVACUATE, ALERT and DRILL share the lowest
generator that plays their pattern for their class; otherwise a FREE generator is granted, to them generator 3 first, to the
other classes the lowest of 0 to 2; otherwise they cut the generator whose class is lowest below theirs, of those the
highest-numbered, whose users end CUT one after another; otherwise the session joins the wait list by class and creation
sequence, a BELL without a defer limit ending NO_SOURCE instead. A grant starts a copy of the pattern, and the waiting
sessions that may share it join; a generator that has become FREE is granted to the head of the wait list. -/
def Obligations.GeneratorsAreSharedCutOrWaitedFor : Prop :=
  let emergency (c : Cls) : Prop := c = .evacuate ∨ c = .alert ∨ c = .drill
  let plays (s : State) (g : GenId) : Prop := (s.gen g).users ≠ []
  (∀ (n : SessId) (x : Session) (q : PatternId) (s : State), s.sess n = some x → x.source = .tone q →
    let shares (g : GenId) : Prop := emergency x.cls ∧ plays s g ∧ (s.gen g).cls = some x.cls ∧
      (s.gen g).pattern = some q
    let may (g : GenId) : Prop := ¬ plays s g ∧ (emergency x.cls ∨ g ≠ 3)
    let below (g : GenId) (d : Cls) : Prop := emergency x.cls ∧ plays s g ∧ (s.gen g).cls = some d ∧ x.cls.num < d.num
    let unshared : Prop := ∀ g, ¬ shares g
    let taken : Prop := unshared ∧ ∀ g, ¬ may g
    let ahead (o : SessId) : Bool := match s.sess o with
      | some y => !(decide (x.cls.num < y.cls.num) || (x.cls == y.cls && decide (x.seq < y.seq)))
      | none => true
    (∀ g, shares g → (∀ h, h < g → ¬ shares h) → s.askGen n = (s.onGen g fun r =>
      { r with users := insertNum n r.users }).onSess n fun y =>
        { y with state := .active, activeAt := some s.time.elapsed }) ∧
    (∀ g, unshared → may g → (emergency x.cls → may 3 → g = 3) → ((¬ emergency x.cls ∨ ¬ may 3) →
      ∀ h, h < g → ¬ may h) → s.askGen n = s.grantGen g n) ∧
    (∀ g d, taken → below g d → (∀ h e, below h e → e.num < d.num ∨ e = d ∧ h ≤ g) → s.askGen n = s.takeGen g n ∧
      ∃ u, s.takeGen g n = u.grantGen g n ∧ u = ((s.gen g).users.foldl (fun v m => v.endSession m .cut)
        (s.onWork fun w => { w with cutGen := some g })).onWork fun w => { w with cutGen := none }) ∧
    (taken → (∀ g d, ¬ below g d) →
      (x.cls = .bell ∧ x.deferLimit = 0 → s.askGen n = s.endSession n .noSource) ∧
      (¬ (x.cls = .bell ∧ x.deferLimit = 0) → s.askGen n = s.onTone fun t => { t with
        waitList := t.waitList.takeWhile ahead ++ n :: t.waitList.dropWhile ahead }))) ∧
  (∀ (g : GenId) (n : SessId) (x : Session) (q : PatternId) (s : State), s.sess n = some x → x.source = .tone q →
    let granted : State := (s.onGen g fun _ =>
      { users := [n], cls := some x.cls, pattern := some q, copy := s.tone.patterns.at q, begun := false, step := 0
        onPhase := true, left := 0, divider := none }).onSess n fun y =>
          { y with state := .active, activeAt := some s.time.elapsed }
    let joins (m : SessId) : Bool := match granted.sess m with
      | some y => y.cls == x.cls && (y.cls == .evacuate || y.cls == .alert || y.cls == .drill) && y.source == .tone q
      | none => false
    s.grantGen g n = (s.tone.waitList.filter joins).foldl (fun u m => (u.onGen g fun r =>
      { r with users := insertNum m r.users }).onSess m fun y =>
        { y with state := .active, activeAt := some s.time.elapsed })
      (granted.onTone fun t => { t with waitList := t.waitList.filter fun m => !joins m })) ∧
  ∀ (n : SessId) (g : GenId) (s : State),
    let idle := s.onGen g fun _ => Generator.idle
    (∀ m, m ∈ (s.gen g).users → m ≠ n → s.leaveGen n g = s.onGen g fun r =>
      { r with users := r.users.filter fun k => k != n }) ∧
    ((∀ m, m ∈ (s.gen g).users → m = n) → s.work.cutGen ≠ some g →
      (s.tone.waitList = [] → s.leaveGen n g = idle) ∧
      ∀ m rest, s.tone.waitList = m :: rest →
        s.leaveGen n g = (idle.onTone fun t => { t with waitList := rest }).grantGen g m)


/-! ### Alarms and drills (chapter 7) -/

/-- FIRE_CONTACT_CLOSURE (R105, R110, R111, R123): a contact that has shown closed at 16 boundaries closes, and before
that nothing happens (log entry 11); unless it is in ALARM already, the building goes to ALARM without timer, profile or drill outcome, its alerting sources kept. Each
other building of its spread set gains it as a source, and goes from QUIET to ALERTED. The log gains an open ALARM
record of this instant, an open DRILL record closing INTERRUPTED_BY_ALARM; an open ALARM record stays as it is. Each
transition hands over its BUILDING_STATE record, and the ALARM notice stands; the building's signal is an EVACUATE session of
pattern 0, an alerted one's an ALERT session of pattern 1, where they find a record and a zone.
R107, for every transition: the old signal ends, state and log change, the new state is announced, the record
handed over, the mirror rewritten, the timer started and the signal asked for; stand-downs that this leaves to end follow
it (log entry 22). R108, 7.2: what each state asks for, how the answer is dealt with, and that, once an event in which a
session left the table is dealt with, every wanted signal is asked for again, by class and number. -/
def Obligations.AlarmClosure : Prop :=
  let sounds (s : State) (b : BuildingId) : Option (SignalKind × Cls × Source × Option Nat) :=
    match (s.building b).state, (s.building b).profile.bind fun n => s.drill.profiles.at n with
    | .alarm, _ => some (.evacuation, .evacuate, .tone 0, none)
    | .alerted, _ => some (.alarmElsewhere, .alert, .tone 1, none)
    | .prealert, some p => match p.preAlert with
      | .tone q => some (.preAlert, .drill, .tone q, none)
      | .player q m r => some (.preAlert, .drill, .player q m r, none)
    | .evacuating, some p => some (.drillEvacuation, .drill, .tone p.evacPattern, none)
    | .standingDown, some p => some (.allClear, .drill, .tone p.clearPattern, some p.clearDuration)
    | .standingDown, none => some (.allClear, .drill, .tone 3, some 40)
    | _, _ => none
  (∀ (b : BuildingId) (m : Move) (s : State),
    let s1 := (match (s.building b).signal with
      | some n => s.endSession n .building
      | none => s).onBuilding b fun r => { r with signal := none, wanted := false, timer := none }
    let s2 := m.log (s1.onBuilding b fun r => { r with state := m.new })
    let s3 := ((Mask.members (s2.router.maps.at b)).foldl (fun u z => State.rejudge z u)
      (s2.onRouter fun r => { r with view := r.view.put b m.new })).bellBuildingState b m.new
    let s4 := (s3.report (.buildingState b (s.building b).state m.new m.cause)).writeBuildingMirror b
    s.transitionCore b m = (s4.onBuilding b fun r => { r with timer := m.timer }).askSignal b ∧
    s.transition b m = (s.transitionCore b m).drainStandDowns 12) ∧
  (∀ (b : BuildingId) (s : State), (sounds s b = none → s.askSignal b = s) ∧
    ∀ k c q d, sounds s b = some (k, c, q, d) →
      let made := s.createSession ⟨c, .building b k, q, s.router.maps.at b, 0, d, 0⟩
      let gone := made.1.onBuilding b fun r => { r with signal := none, wanted := false }
      (made.2 = none → s.askSignal b = made.1.onBuilding b fun r => { r with signal := none, wanted := true }) ∧
      ∀ n, made.2 = some n →
        (made.1.sess n ≠ none → s.askSignal b =
          made.1.onBuilding b fun r => { r with signal := some n, wanted := false }) ∧
        (made.1.sess n = none → s.askSignal b = if (made.1.building b).state = .standingDown then
          gone.onWork fun w => { w with standDowns := w.standDowns ++ [b] } else gone)) ∧
  (∀ (k : Nat) (s : State),
    (s.work.standDowns = [] → s.drainStandDowns (k + 1) = s) ∧
    (∀ c rest, s.work.standDowns = c :: rest →
      let u := s.onWork fun w => { w with standDowns := rest }
      let r := s.building c
      s.drainStandDowns (k + 1) = (if r.state = .standingDown ∧ r.signal = none ∧ r.wanted = false then u.transitionCore c
        ⟨if r.sources = 0 then .quiet else .alerted, .signalEnd, State.closeStandDown c, none⟩ else u).drainStandDowns k) ∧
    s.whole = (s.settleSignals 24).noteSelections ∧
    let v := s.drainStandDowns 12
    let u := v.onWork fun w => { w with ended := false }
    (v.work.ended = false → s.settleSignals (k + 1) = v) ∧
    (v.work.ended = true → s.settleSignals (k + 1) =
      (([Cls.evacuate, .alert, .drill].flatMap fun c => (List.finRange 6).filter fun b =>
        (v.building b).wanted && (sounds v b).any fun x => x.2.1 == c).foldl
          (fun w b => if (w.building b).wanted = true then w.askSignal b else w) u).settleSignals k)) ∧
  ∀ (b : BuildingId) (s : State),
    let r := s.building b
    let due : Prop := s.up = true ∧ 16 ≤ r.contactCount ∧ r.contact = false
    let now : Stamp := ⟨s.time.stdSec, s.time.eighth⟩
    let new : LogRec :=
      { serial := s.drill.serial, isAlarm := true, building := b, profile := none, quality := s.time.quality
        start := now, preStart := now, evacStart := some now, muster := none, evacTime := none, endTime := none
        outcome := .stillOpen }
    let cut (q : LogRec) : LogRec :=
      if q.isOpenOf b then { q with endTime := some now, outcome := .interruptedByAlarm } else q
    (¬ due → exec (.fireContactClosure b) s = .next s.keep) ∧
    (due → r.state = .alarm → ∃ t, exec (.fireContactClosure b) s = .next t ∧
      Sounded (s.onBuilding b fun x => { x with contact := true, contactCount := 0 }) t) ∧
    (due → r.state ≠ .alarm → ∃ t, exec (.fireContactClosure b) s = .next t ∧
      t = (((List.finRange 6).filter fun c => Mask.has (s.router.spread.at b) c.val && c != b).foldl (fun u c =>
          let v := u.onBuilding c fun x => { x with sources := Mask.add x.sources b.val }
          if (v.building c).state = .quiet then v.transition c ⟨.alerted, .spread, id, none⟩ else v)
        ((s.onBuilding b fun x => { x with contact := true, contactCount := 0 }).transition b
          ⟨.alarm, .contact, State.closureLog b, none⟩)).whole.keep ∧
      AlarmNoticed s t ∧
      (s.signalFinds b .evacuate → t.signalIs b .evacuation .evacuate 0 none) ∧
      (∀ c, c ≠ b → Mask.has (s.router.spread.at b) c.val = true → (s.building c).state = .quiet → s.signalFinds c .alert →
        6 ≤ ((List.finRange 16).filter fun n => (s.sess n).isNone).length →
        (∀ d, d ≠ c → s.router.maps.at c &&& s.router.maps.at d = 0) → t.signalIs c .alarmElsewhere .alert 1 none) ∧
      (∀ p : CurPage, s.rh.writerOn = true → s.rh.current = some p → p.count ≤ 30 → (∀ n, s.sess n = none) →
        s.openRecordOf b = none → t.mem.readBytes (pageBase p.page + 16 + 16 * p.count) 16 =
          [6] ++ leBytes 1 (1 + 2 * s.time.quality.num) ++ leBytes 4 s.time.stdSec ++ leBytes 1 s.time.eighth ++
            leBytes 1 b.val ++ leBytes 1 r.state.num ++ [6, 0, 0, 0, 0, 0, 0]) ∧
      (t.building b).core = { r.core with
        state := .alarm, contact := true, contactCount := 0, timer := none, profile := none, outcome := none
        openRec := (t.building b).openRec, evacFrom := (t.building b).evacFrom } ∧
      (∀ c, c ≠ b → (s.building c).state ≠ .standingDown →
        let x := (s.building c).core
        (Mask.has (s.router.spread.at b) c.val = false → (t.building c).core = x) ∧
        (Mask.has (s.router.spread.at b) c.val = true → x.state = .quiet →
          (t.building c).core = { x with sources := Mask.add x.sources b.val, state := .alerted, timer := none }) ∧
        (Mask.has (s.router.spread.at b) c.val = true → x.state ≠ .quiet →
          (t.building c).core = { x with sources := Mask.add x.sources b.val })) ∧
      SoundSide s t ∧ Pages s t ∧
      ((∀ c, c ≠ b → (s.building c).state ≠ .standingDown) →
        (s.openRecordOf b = none → t.drill.log = addRecord new s.drill.log ∧ t.drill.serial = s.drill.serial + 1 ∧
          (t.building b).openRec = some s.drill.serial ∧ (t.building b).evacFrom = some s.time.elapsed) ∧
        (∀ q, s.openRecordOf b = some q → q.isAlarm = true → t.drill.log = s.drill.log ∧
          t.drill.serial = s.drill.serial ∧ (t.building b).openRec = r.openRec ∧ (t.building b).evacFrom = r.evacFrom) ∧
        (∀ q, s.openRecordOf b = some q → q.isAlarm = false →
          t.drill.log = addRecord new (s.drill.log.map cut) ∧ t.drill.serial = s.drill.serial + 1 ∧
          (t.building b).openRec = some s.drill.serial ∧ (t.building b).evacFrom = some s.time.elapsed)))

/-- FIRE_CONTACT_OPENING, MUSTER_RELEASE and MUSTER_PRESS (R105, R106, R118): once the input has held the other level long
enough, which for the button is the second consecutive sample (log entry 15), the debounced level changes; before that
nothing happens (log entry 11). Of an opening and a release nothing else comes. Of a press: in EVACUATING the building goes
to MUSTERED, by a transition of cause MUSTER that ends its signal (R107), with outcome COMPLETED and the profile's AUTO timer,
its record stamped with the muster time and the evacuation time; in ALARM and ALARM_HUSHED an alarm record
without a muster time is stamped; and nothing else comes of it. -/
def Obligations.MusterAndContactInputs : Prop :=
  ∀ (b : BuildingId) (s : State),
    let r := s.building b
    let due : Prop := s.up = true ∧ 2 ≤ r.musterCount ∧ r.muster = false
    let pressed := s.onBuilding b fun x => { x with muster := true, musterCount := 0 }
    let auto : Option (TimerKind × Nat) := (r.profile.bind fun n => s.drill.profiles.at n).bind fun p =>
      if p.autoSec = 0 then none else some (.auto, s.time.elapsed + 8 * p.autoSec)
    let stamped (q : LogRec) : LogRec :=
      if q.isOpenOf b then
        { q with muster := some ⟨s.time.stdSec, s.time.eighth⟩
                 evacTime := r.evacFrom.map fun e => min (s.time.elapsed - e) 65535 }
      else q
    (s.up = true → 16 ≤ r.contactCount → r.contact = true → exec (.fireContactOpening b) s = .next
      (s.onBuilding b fun x => { x with contact := false, contactCount := 0 }).keep) ∧
    (s.up = false ∨ r.contactCount < 16 ∨ r.contact = false → exec (.fireContactOpening b) s = .next s.keep) ∧
    (s.up = true → 2 ≤ r.musterCount → r.muster = true → exec (.musterRelease b) s = .next
      (s.onBuilding b fun x => { x with muster := false, musterCount := 0 }).keep) ∧
    (s.up = false ∨ r.musterCount < 2 ∨ r.muster = false → exec (.musterRelease b) s = .next s.keep) ∧
    (¬ due → exec (.musterPress b) s = .next s.keep) ∧
    (due → r.state = .evacuating → ∃ t, exec (.musterPress b) s = .next t ∧
      t = (pressed.transition b ⟨.mustered, .muster,
        fun u => (u.onDrill fun d => { d with log := d.log.map stamped }).onBuilding b fun x =>
          { x with outcome := some .completed }, auto⟩).whole.keep ∧
      AlarmNoticed s t ∧ t.signalNone b ∧
      (∀ n p, r.profile = some n → s.drill.profiles.at n = some p → (t.building b).core = { r.core with
        state := .mustered, muster := true, musterCount := 0, outcome := some .completed
        timer := if p.autoSec = 0 then none else some (.auto, s.time.elapsed + 8 * p.autoSec) }) ∧
      (∀ c, c ≠ b → (s.building c).state ≠ .standingDown → (t.building c).core = (s.building c).core) ∧
      (s.noneDown → t.drill.log = s.drill.log.map stamped) ∧ t.drill.serial = s.drill.serial ∧
      SoundSide s t ∧ Pages s t) ∧
    (due → r.state = .alarm ∨ r.state = .alarmHushed →
      (∀ q, s.openRecordOf b = some q → q.isAlarm = true → q.muster = none → exec (.musterPress b) s = .next
        (pressed.onDrill fun d => { d with log := d.log.map stamped }).keep) ∧
      (s.openRecordOf b = none ∨ (∀ q, s.openRecordOf b = some q → q.isAlarm = false ∨ q.muster ≠ none) →
        exec (.musterPress b) s = .next pressed.keep)) ∧
    (due → r.state ≠ .evacuating → r.state ≠ .alarm → r.state ≠ .alarmHushed →
      exec (.musterPress b) s = .next pressed.keep)

/-- HUSH (R109, R112, R113): every named building in ALARM goes to ALARM_HUSHED, whatever its contact, and leaves the
alerting sources of every building, of which an ALERTED one left without a source goes to QUIET; a named building in
another state gets the outcome STATE and is not touched. The log stands. Each change of state is a transition, cause HUSH
or SOURCES_CLEARED (R107), after which the ALARM notice stands and the building has no signal. -/
def Obligations.HushSilences : Prop :=
  ∀ (i : CellId) (tag : Word) (mask : Byte) (s : State), s.takes i →
    let named (b : BuildingId) : Bool := Mask.has mask b.val
    let hits (b : BuildingId) : Bool := named b && (s.building b).state == .alarm
    let outcome (b : BuildingId) : Code := if (s.building b).state = .alarm then .ok else .state
    let unalerted (b : BuildingId) (s : State) : State :=
      ((List.finRange 6).filter fun c => Mask.has (s.building c).sources b.val).foldl (fun u c =>
        let v := u.onBuilding c fun x => { x with sources := Mask.del x.sources b.val }
        if (v.building c).state = .alerted ∧ (v.building c).sources = 0 then
          v.transition c ⟨.quiet, .sourcesCleared, id, none⟩
        else v) s
    let hushed : BuildingSet := ((List.finRange 6).filter hits).foldl (fun m b => Mask.add m b.val) 0
    (mask = 0 ∨ 63 < mask.toNat → ∃ t, exec (.hush i tag mask) s = .next t ∧
      Answered i .hush tag ⟨.badParam, 0, []⟩ s t ∧ HostSide s t) ∧
    (mask ≠ 0 → mask.toNat ≤ 63 → (∀ b, hits b = false) → ∃ t, exec (.hush i tag mask) s = .next t ∧
      Answered i .hush tag (onBuildings named outcome []) s t ∧ HostSide s t) ∧
    (mask.toNat ≤ 63 → (∃ b, hits b = true) → ∃ t, exec (.hush i tag mask) s = .next t ∧
      Answered i .hush tag (onBuildings named outcome []) s t ∧ SoundSide s t ∧ t.drill.serial = s.drill.serial ∧
      (s.noneDown → t.drill.log = s.drill.log) ∧ AlarmNoticed s t ∧ (∀ b, hits b = true → t.signalNone b) ∧
      t = ((((List.finRange 6).filter hits).foldl (fun u b => unalerted b (u.transition b ⟨.alarmHushed, .hush, id, none⟩))
        (s.posted i .hush tag [mask])).whole.complete i 10 tag (onBuildings named outcome [])).keep ∧
      ∀ b, let x := (s.building b).core
        (hits b = true → (t.building b).core =
          { x with state := .alarmHushed, timer := none, sources := x.sources &&& ~~~hushed }) ∧
        (hits b = false → x.state = .alerted → x.sources &&& hushed ≠ 0 → x.sources &&& ~~~hushed = 0 →
          (t.building b).core = { x with state := .quiet, timer := none, sources := 0 }) ∧
        (hits b = false → x.state ≠ .standingDown →
          (x.state = .alerted → x.sources &&& hushed = 0 ∨ x.sources &&& ~~~hushed ≠ 0) →
          (t.building b).core = { x with sources := x.sources &&& ~~~hushed }))

/-- ALL_CLEAR (R109, R112, R114): a named building in ALARM or ALARM_HUSHED whose contact is open, or in MUSTERED, goes
to STANDING_DOWN, its record, profile and drill outcome kept; one with its contact closed gets CONTACT_ACTIVE, and one in
another state STATE, and neither is touched. What was in ALARM leaves all alerting sources. A stand-down whose all-clear
session finds no zone to sound in is over at once (R122), and its record closed; one that finds a zone stands, and where a
record is free its signal is a DRILL session of the profile's all-clear, or of pattern 3 for 40 eighths. Each
change of state is a transition, cause ALL_CLEAR or SOURCES_CLEARED (R107), after which the ALARM notice stands. That a
DRILL record without an outcome would close COMPLETED is log entry 37. -/
def Obligations.AllClearStandsDown : Prop :=
  ∀ (i : CellId) (tag : Word) (mask : Byte) (s : State), s.takes i →
    let named (b : BuildingId) : Bool := Mask.has mask b.val
    let alarmed (b : BuildingId) : Bool := (s.building b).state == .alarm || (s.building b).state == .alarmHushed
    let outcome (b : BuildingId) : Code :=
      if alarmed b = true then (if (s.building b).contact = true then .contactActive else .ok)
      else if (s.building b).state = .mustered then .ok else .state
    let goes (b : BuildingId) : Bool := named b && outcome b == .ok
    let allClearOf (t : State) (b : BuildingId) : Prop :=
      match (s.building b).profile.bind fun n => s.drill.profiles.at n with
      | some p => t.signalIs b .allClear .drill p.clearPattern (some p.clearDuration)
      | none => t.signalIs b .allClear .drill 3 (some 40)
    let unalerted (b : BuildingId) (s : State) : State :=
      ((List.finRange 6).filter fun c => Mask.has (s.building c).sources b.val).foldl (fun u c =>
        let v := u.onBuilding c fun x => { x with sources := Mask.del x.sources b.val }
        if (v.building c).state = .alerted ∧ (v.building c).sources = 0 then
          v.transition c ⟨.quiet, .sourcesCleared, id, none⟩
        else v) s
    let cleared : BuildingSet := ((List.finRange 6).filter fun b => goes b && (s.building b).state == .alarm).foldl
      (fun m b => Mask.add m b.val) 0
    (mask = 0 ∨ 63 < mask.toNat → ∃ t, exec (.allClear i tag mask) s = .next t ∧
      Answered i .allClear tag ⟨.badParam, 0, []⟩ s t ∧ HostSide s t) ∧
    (mask ≠ 0 → mask.toNat ≤ 63 → (∀ b, goes b = false) → ∃ t, exec (.allClear i tag mask) s = .next t ∧
      Answered i .allClear tag (onBuildings named outcome []) s t ∧ HostSide s t) ∧
    (mask.toNat ≤ 63 → (∃ b, goes b = true) → ∃ t, exec (.allClear i tag mask) s = .next t ∧
      Answered i .allClear tag (onBuildings named outcome []) s t ∧ SoundSide s t ∧ t.drill.serial = s.drill.serial ∧
      (s.noneDown → t.drill.log = s.logStoodDown t goes fun b => (s.building b).outcome) ∧ AlarmNoticed s t ∧
      t = ((((List.finRange 6).filter goes).foldl (fun u b =>
        let v := u.transition b ⟨.standingDown, .allClear, id, none⟩
        if (s.building b).state = .alarm then unalerted b v else v)
        (s.posted i .allClear tag [mask])).whole.complete i 9 tag (onBuildings named outcome [])).keep ∧
      (∀ b, goes b = true → (∀ c, goes c = true → c = b) → s.signalFinds b .drill → allClearOf t b) ∧
      ∀ b, let x := (s.building b).core
        (goes b = true → StandsDown s t b { x with sources := x.sources &&& ~~~cleared }) ∧
        (goes b = true → (∀ c, goes c = true → c = b) → s.clearSounds b → (t.building b).core =
          { x with state := .standingDown, timer := none, sources := x.sources &&& ~~~cleared }) ∧
        (goes b = true → (∀ c, goes c = true → c = b) → s.clearSilent b →
          StandDownOver s t b { x with sources := x.sources &&& ~~~cleared }) ∧
        (goes b = false → x.state = .alerted → x.sources &&& cleared ≠ 0 → x.sources &&& ~~~cleared = 0 →
          (t.building b).core = { x with state := .quiet, timer := none, sources := 0 }) ∧
        (goes b = false → x.state ≠ .standingDown →
          (x.state = .alerted → x.sources &&& cleared = 0 ∨ x.sources &&& ~~~cleared ≠ 0) →
          (t.building b).core = { x with sources := x.sources &&& ~~~cleared }))

/-- DRILL_START (R109, R115, R116, R123): a named building in QUIET or ALERTED opens a DRILL record, with its serial,
building, profile, quality, start and pre-alert start, and goes to PREALERT, or, where the profile has no pre-alert, to
EVACUATING with the evacuation start stamped, with the timer of that state. One in ALARM or ALARM_HUSHED gets
CONTACT_ACTIVE, one in a drill or standing down BUSY (a stand-down may end before a later building's turn, so the
statement takes those that stand down before those that start). The answer gives the outcomes and the serials opened. A mask
or a profile that does not exist is BAD_PARAM. Each start is a transition, cause DRILL_START (R107), after which the ALARM
notice stands; a building that starts alone has a DRILL session as its signal, of the profile's pre-alert pattern or its
evacuation pattern, where this finds a record and a zone. The log gains the records opened and nothing else, where no building stands
down and no starting building has an open record. -/
def Obligations.DrillStarts : Prop :=
  ∀ (i : CellId) (tag : Word) (mask profile : Byte) (s : State), s.takes i →
    let c : Instr := .drillStart i tag mask profile
    let named (b : BuildingId) : Bool := Mask.has mask b.val
    let free (b : BuildingId) : Bool := (s.building b).state == .quiet || (s.building b).state == .alerted
    let outcome (b : BuildingId) : Code :=
      if free b = true then .ok
      else if (s.building b).state = .alarm ∨ (s.building b).state = .alarmHushed then .contactActive else .busy
    let goes (b : BuildingId) : Bool := named b && free b
    let serial (b : BuildingId) : Word :=
      s.drill.serial + BitVec.ofNat 16 ((List.finRange 6).filter fun e => goes e && decide (e < b)).length
    let answer : Answer := onBuildings named outcome
      ([0] ++ (List.finRange 6).flatMap fun b => leBytes 2 (if goes b then (serial b).toNat else 0))
    let now : Stamp := ⟨s.time.stdSec, s.time.eighth⟩
    (mask = 0 ∨ 63 < mask.toNat ∨ 7 < profile.toNat ∨
        (∀ n : ProfileId, n.val = profile.toNat → s.drill.profiles.at n = none) →
      ∃ t, exec c s = .next t ∧ Answered i .drillStart tag ⟨.badParam, 0, []⟩ s t ∧ HostSide s t) ∧
    ∀ (n : ProfileId) (p : Profile), n.val = profile.toNat → s.drill.profiles.at n = some p → mask ≠ 0 →
      mask.toNat ≤ 63 →
      (∀ b e, named b = true → (s.building b).state = .standingDown → goes e = true → b < e) →
      ((∀ b, goes b = false) → ∃ t, exec c s = .next t ∧ Answered i .drillStart tag answer s t ∧ HostSide s t) ∧
      ((∃ b, goes b = true) → ∃ t, exec c s = .next t ∧ Answered i .drillStart tag answer s t ∧ SoundSide s t ∧
        AlarmNoticed s t ∧
        t = ((((List.finRange 6).filter goes).foldl (fun u b =>
          let opened (v : State) : State := (v.openRecord b false (some n) none).onBuilding b fun r =>
            { r with profile := some n, outcome := none }
          if p.preAlertSec = 0 then u.transition b ⟨.evacuating, .drillStart, fun v => (opened v).stampEvacStart b,
            some (.limit, s.time.elapsed + 8 * p.limitSec)⟩
          else u.transition b ⟨.prealert, .drillStart, opened, some (.prealert, s.time.elapsed + 8 * p.preAlertSec)⟩)
          (s.posted i .drillStart tag [mask, profile])).whole.complete i 7 tag answer).keep ∧
        (∀ b, goes b = true → (∀ e, goes e = true → e = b) → s.signalFinds b .drill →
          (p.preAlertSec = 0 → t.signalIs b .drillEvacuation .drill p.evacPattern none) ∧
          ∀ q, 0 < p.preAlertSec → p.preAlert = .tone q → t.signalIs b .preAlert .drill q none) ∧
        t.drill.serial = s.drill.serial + BitVec.ofNat 16 ((List.finRange 6).filter goes).length ∧
        (s.noneDown → (∀ b q, goes b = true → q ∈ s.drill.log → q.building = b → q.outcome ≠ .stillOpen) →
          t.drill.log = ((List.finRange 6).filter goes).foldl (fun log b => addRecord
            { serial := serial b, isAlarm := false, building := b, profile := some n, quality := s.time.quality
              start := now, preStart := now, evacStart := if p.preAlertSec = 0 then some now else none
              muster := none, evacTime := none, endTime := none, outcome := .stillOpen } log) s.drill.log) ∧
        ∀ b, let x := (s.building b).core
          (goes b = true → 0 < p.preAlertSec → (t.building b).core = { x with
            state := .prealert, profile := some n, outcome := none, openRec := some (serial b)
            timer := some (.prealert, s.time.elapsed + 8 * p.preAlertSec) }) ∧
          (goes b = true → p.preAlertSec = 0 → (t.building b).core = { x with
            state := .evacuating, profile := some n, outcome := none, openRec := some (serial b)
            evacFrom := some s.time.elapsed, timer := some (.limit, s.time.elapsed + 8 * p.limitSec) }) ∧
          (goes b = false → x.state ≠ .standingDown → (t.building b).core = x))

/-- DRILL_ABORT (R109, R121): a named building in PREALERT, EVACUATING or MUSTERED goes to STANDING_DOWN with drill
outcome ABORTED and no timer; one in another state gets the outcome STATE and is not touched. A stand-down whose all-clear
session finds no zone to sound in is over at once (R122), and its record closed, ABORTED in a DRILL record; one that finds
a zone stands, and where a record is free its signal is a DRILL session of the profile's all-clear, or of pattern 3 for 40
eighths. Each is a transition, cause ABORT (R107), after which the ALARM notice stands. The outcome that log entry 37
chooses, for a stand-down without one, does not come up here. -/
def Obligations.DrillAborts : Prop :=
  ∀ (i : CellId) (tag : Word) (mask : Byte) (s : State), s.takes i →
    let named (b : BuildingId) : Bool := Mask.has mask b.val
    let drills (b : BuildingId) : Bool := (s.building b).state == .prealert || (s.building b).state == .evacuating ||
      (s.building b).state == .mustered
    let outcome (b : BuildingId) : Code := if drills b = true then .ok else .state
    let goes (b : BuildingId) : Bool := named b && drills b
    (mask = 0 ∨ 63 < mask.toNat → ∃ t, exec (.drillAbort i tag mask) s = .next t ∧
      Answered i .drillAbort tag ⟨.badParam, 0, []⟩ s t ∧ HostSide s t) ∧
    (mask ≠ 0 → mask.toNat ≤ 63 → (∀ b, goes b = false) → ∃ t, exec (.drillAbort i tag mask) s = .next t ∧
      Answered i .drillAbort tag (onBuildings named outcome []) s t ∧ HostSide s t) ∧
    (mask.toNat ≤ 63 → (∃ b, goes b = true) → ∃ t, exec (.drillAbort i tag mask) s = .next t ∧
      Answered i .drillAbort tag (onBuildings named outcome []) s t ∧ SoundSide s t ∧
      t.drill.serial = s.drill.serial ∧
      (s.noneDown → t.drill.log = s.logStoodDown t goes fun _ => some .aborted) ∧ AlarmNoticed s t ∧
      t = ((((List.finRange 6).filter goes).foldl (fun u b => u.transition b
        ⟨.standingDown, .abort, State.onBuilding b fun r => { r with outcome := some .aborted }, none⟩)
        (s.posted i .drillAbort tag [mask])).whole.complete i 8 tag (onBuildings named outcome [])).keep ∧
      (∀ b, goes b = true → (∀ c, goes c = true → c = b) → s.signalFinds b .drill →
        match (s.building b).profile.bind fun n => s.drill.profiles.at n with
        | some p => t.signalIs b .allClear .drill p.clearPattern (some p.clearDuration)
        | none => t.signalIs b .allClear .drill 3 (some 40)) ∧
      ∀ b, let x := (s.building b).core
        (goes b = true → StandsDown s t b { x with outcome := some .aborted }) ∧
        (goes b = true → (∀ c, goes c = true → c = b) → s.clearSounds b →
          (t.building b).core = { x with state := .standingDown, outcome := some .aborted, timer := none }) ∧
        (goes b = true → (∀ c, goes c = true → c = b) → s.clearSilent b →
          StandDownOver s t b { x with outcome := some .aborted }) ∧
        (goes b = false → x.state ≠ .standingDown → (t.building b).core = x))

/-- PREALERT_TIMER_EXPIRY, LIMIT_TIMER_EXPIRY and AUTO_TIMER_EXPIRY (R117, R119, R120): at its expiry the pre-alert gives
way to EVACUATING with the LIMIT timer and the evacuation start stamped; the limit to MUSTERED with outcome TIMED_OUT and
the AUTO timer, the record keeping no muster time; the auto all-clear to STANDING_DOWN, its record, profile and drill
outcome kept, which is over at once where its all-clear session finds no zone to sound in (R122), and stands where it
finds one. Each is a transition, cause PREALERT_END, LIMIT or AUTO (R107), after which the ALARM notice stands; the signal of
EVACUATING is a DRILL session of the profile's evacuation pattern, MUSTERED has none, and that of STANDING_DOWN is a DRILL
session of the profile's all-clear, or of pattern 3 for 40 eighths, where it finds a record and a
zone. That a DRILL record without an outcome would then close COMPLETED is log entry 37. Before its expiry a timer does
nothing (log entry 11). -/
def Obligations.DrillTimers : Prop :=
  ∀ (b : BuildingId) (s : State),
    let r := s.building b
    let x := r.core
    let due (k : TimerKind) : Prop := s.up = true ∧ ∃ e, r.timer = some (k, e) ∧ e ≤ s.time.elapsed
    let apart (t : State) : Prop := t.drill.serial = s.drill.serial ∧ SoundSide s t ∧ Pages s t ∧
      ∀ c, c ≠ b → (s.building c).state ≠ .standingDown → (t.building c).core = (s.building c).core
    let stamped (q : LogRec) : LogRec :=
      if q.isOpenOf b then { q with evacStart := some ⟨s.time.stdSec, s.time.eighth⟩ } else q
    let profile : Option Profile := r.profile.bind fun n => s.drill.profiles.at n
    let auto : Option (TimerKind × Nat) := profile.bind fun p =>
      if p.autoSec = 0 then none else some (.auto, s.time.elapsed + 8 * p.autoSec)
    (due .prealert → ∃ t, exec (.prealertTimerExpiry b) s = .next t ∧ apart t ∧ AlarmNoticed s t ∧
      t = (s.transition b ⟨.evacuating, .prealertEnd, fun u => (u.onDrill fun d =>
          { d with log := d.log.map stamped }).onBuilding b fun x => { x with evacFrom := some s.time.elapsed },
        profile.map fun p => (.limit, s.time.elapsed + 8 * p.limitSec)⟩).whole.keep ∧
      (∀ p, profile = some p → s.signalFinds b .drill → t.signalIs b .drillEvacuation .drill p.evacPattern none) ∧
      (s.noneDown → t.drill.log = s.drill.log.map stamped) ∧
      ∀ n p, r.profile = some n → s.drill.profiles.at n = some p → (t.building b).core = { x with
        state := .evacuating, evacFrom := some s.time.elapsed
        timer := some (.limit, s.time.elapsed + 8 * p.limitSec) }) ∧
    (due .limit → ∃ t, exec (.limitTimerExpiry b) s = .next t ∧ apart t ∧ AlarmNoticed s t ∧ t.signalNone b ∧
      t = (s.transition b ⟨.mustered, .limit, State.onBuilding b fun x => { x with outcome := some .timedOut },
        auto⟩).whole.keep ∧
      (s.noneDown → t.drill.log = s.drill.log) ∧
      ∀ n p, r.profile = some n → s.drill.profiles.at n = some p → (t.building b).core = { x with
        state := .mustered, outcome := some .timedOut
        timer := if p.autoSec = 0 then none else some (.auto, s.time.elapsed + 8 * p.autoSec) }) ∧
    (due .auto → ∃ t, exec (.autoTimerExpiry b) s = .next t ∧ apart t ∧ AlarmNoticed s t ∧
      t = (s.transition b ⟨.standingDown, .auto, id, none⟩).whole.keep ∧
      (s.signalFinds b .drill → match profile with
        | some p => t.signalIs b .allClear .drill p.clearPattern (some p.clearDuration)
        | none => t.signalIs b .allClear .drill 3 (some 40)) ∧
      StandsDown s t b x ∧ (s.clearSounds b → (t.building b).core = { x with state := .standingDown, timer := none }) ∧
      (s.clearSilent b → StandDownOver s t b x) ∧
      (s.noneDown → t.drill.log = s.logStoodDown t (fun c => c == b) fun c => (s.building c).outcome)) ∧
    (¬ due .prealert → exec (.prealertTimerExpiry b) s = .next s.keep) ∧
    (¬ due .limit → exec (.limitTimerExpiry b) s = .next s.keep) ∧
    (¬ due .auto → exec (.autoTimerExpiry b) s = .next s.keep)

/-! ### The store (R124, R167 to R169, R176) -/

/-- LOG_COPY, LOAD and SAVE (R124, R167, R169, R176): a LOG_COPY's offset is odd or above 7680, or a LOAD's kind, offset
or length is none that exists: BAD_PARAM; a store operation in flight: BUSY (that a LOG_COPY's BAD_PARAM comes before it
is log entry 36). Otherwise the operation goes in flight: the cell reads TAKEN, and the copy of the log, the range, or the
page writes of the sections held are kept: the sections one after another from offset 60, the directory with each
section's kind, offset, length and checksum, and the magic word last; the bytes counted are all that is written (log entry
34). A SAVE with nothing changed has nothing to write. -/
def Obligations.StoreRequests : Prop :=
  ∀ (i : CellId) (tag : Word) (s : State), s.takes i →
    let refused (c : Instr) (k : ReqKind) (code : Code) : Prop :=
      ∃ t, exec c s = .next t ∧ Answered i k tag ⟨code, 0, []⟩ s t ∧ HostSide s t
    let flies (c : Instr) (k : ReqKind) (op : StoreOp) : Prop := ∃ t, exec c s = .next t ∧
      t = { s with power := t.power, rh := t.rh, mem := t.mem } ∧
      t.power = { s.power with storeOp := some op, retained := t.power.retained } ∧
      t.rh = { s.rh with cells := s.rh.cells.put i { s.rh.cells.at i with inFlight := true } } ∧
      t.mem.readWord (cellBase i) = BitVec.ofNat 16 (2 + 256 * k.num) ∧
      ∀ a, (a < cellBase i ∨ cellBase i + 64 ≤ a) → t.mem.read a = s.mem.read a
    (∀ offset : Word,
      let c : Instr := .logCopy i tag offset
      let bad : Prop := offset.toNat % 2 = 1 ∨ 7680 < offset.toNat
      (bad → refused c .logCopy .badParam) ∧
      (¬ bad → s.power.storeOp ≠ none → refused c .logCopy .busy) ∧
      (¬ bad → s.power.storeOp = none → flies c .logCopy (.logCopy i tag offset.toNat s.drill.log false))) ∧
    (∀ (kind : Byte) (offset length : Word),
      let c : Instr := .load i tag kind offset length
      let good : Prop := offset.toNat % 2 = 0 ∧ length.toNat % 2 = 0 ∧ 6 ≤ length.toNat ∧
        offset.toNat + length.toNat ≤ 8192
      (s.power.storeOp ≠ none → refused c .load .busy) ∧
      (s.power.storeOp = none → kind.toNat = 0 ∨ 7 < kind.toNat ∨ ¬ good → refused c .load .badParam) ∧
      ∀ k : SectKind, s.power.storeOp = none → k.num = kind.toNat → good →
        flies c .load (.load i tag k offset.toNat length.toNat [] false)) ∧
    (s.power.storeOp ≠ none → refused (.save i tag) .save .busy) ∧
    (s.power.storeOp = none → (∀ k, s.power.changed.at k = false) →
      flies (.save i tag) .save (.saveNothing i tag false)) ∧
    (s.power.storeOp = none → (∃ k, s.power.changed.at k = true) →
      ∃ plan, flies (.save i tag) .save
        (.save i tag plan s.power.held.length (plan.map fun x => x.2.length).sum false) ∧
        (∀ x ∈ plan, x.1 % 64 + x.2.length ≤ 64) ∧ plan.getLast? = some (0, [0x3C, 0x6A]) ∧
        ∀ m : Mem,
          let image := plan.foldl (fun m x => m.write x.1 x.2) m
          let body := s.power.held.flatMap fun x => x.2
          image.readBytes 60 body.length = body ∧ image.readWord 0 = 0x6A3C ∧
          image.readWord 2 = BitVec.ofNat 16 s.power.held.length ∧
          ∀ (j : Nat) (k : SectKind) (bs : List Byte), s.power.held[j]? = some (k, bs) →
            image.readBytes (4 + 8 * j) 8 = [BitVec.ofNat 8 k.num, 0] ++
              leBytes 2 (60 + ((s.power.held.take j).map fun x => x.2.length).sum) ++ leBytes 2 bs.length ++
              wordBytes (byteSum bs))

/-- LOG_COPY_WRITE, SAVE_NOTHING_COMPLETE and SAVE_PAGE_WRITE (R124, R169): from the boundary after its take an
operation in flight completes: the 16 slots of the copy stand in staging, oldest first and the rest empty (the serial of
an empty log is 0, log entry 8); a SAVE without changes answers 0 sections and 0 bytes; a page write goes to the EEPROM and
the next follows, the last one clearing the changed marks and completing the SAVE with the bytes it wrote (log entry 34);
and a page not acknowledged or read back otherwise stops it with STORE_FAULT and the page's offset, the changed marks
kept; that the page then holds the bytes it reads back, or its old ones where it is not acknowledged, and that the result
area is empty, is log entry 34. -/
def Obligations.StoreOperationsComplete : Prop :=
  ∀ (i : CellId) (tag : Word) (s : State), s.up = true →
    let idle (u : State) : State := u.onPower fun p => { p with storeOp := none }
    (∀ o log, s.power.storeOp = some (.logCopy i tag o log true) → ∃ t, exec .logCopyWrite s = .next t ∧
      Answered i .logCopy tag
        ⟨.ok, 0, leBytes 2 log.length ++ (match log with | r :: _ => wordBytes r.serial | [] => [0, 0])⟩
        (s.onMem fun m => m.write (0x2000 + o) (logBytes log)) t ∧
      (∀ k : Nat, k < 16 → t.mem.readBytes (0x2000 + o + 32 * k) 32 =
        match log[k]? with | some r => r.bytes | none => [0, 0, 255] ++ List.replicate 29 0) ∧
      HostSide (idle s) t) ∧
    (s.power.storeOp = some (.saveNothing i tag true) → ∃ t, exec .saveNothingComplete s = .next t ∧
      Answered i .save tag ⟨.ok, 0, [0, 0, 0, 0]⟩ s t ∧ HostSide (idle s) t) ∧
    (∀ (o : Nat) (bs : List Byte) (rest : List (Nat × List Byte)) (n total : Nat),
      s.power.storeOp = some (.save i tag ((o, bs) :: rest) n total true) →
      let wrote (xs : List Byte) : State := s.between.onPower fun p => { p with eeprom := p.eeprom.write o xs }
      let goesOn (result : PageResult) : Prop :=
        (rest ≠ [] → exec (.savePageWrite result) s = .next ((wrote bs).onPower fun p =>
          { p with storeOp := some (.save i tag rest n total true) }).keep) ∧
        (rest = [] → ∃ t, exec (.savePageWrite result) s = .next t ∧
          Answered i .save tag ⟨.ok, 0, leBytes 1 n ++ [0] ++ leBytes 2 total⟩ s t ∧
          HostSide (idle ((wrote bs).onPower fun p => { p with changed := Tab.all 7 false })) t)
      goesOn .ok ∧
      (∃ t, exec (.savePageWrite .noAck) s = .next t ∧
        Answered i .save tag ⟨.storeFault, BitVec.ofNat 16 o, []⟩ s t ∧ HostSide (idle s.between) t) ∧
      ∀ got : List Byte, got.length = bs.length →
        (got = bs → goesOn (.readsBack got)) ∧
        (got ≠ bs → ∃ t, exec (.savePageWrite (.readsBack got)) s = .next t ∧
          Answered i .save tag ⟨.storeFault, BitVec.ofNat 16 o, []⟩ s t ∧ HostSide (idle (wrote got)) t))

/-- R35, R53, R55, R98, R115, R127, R153, 2.5 and 12.6: the field checks of the seven sections. The counts come first; then
the length that they call for, with position 0; then the fields, record by record in stored order (log entry 30). The
first failure refuses the section with its code, and the position of the zone, building, amplifier, line, record, step or
entry concerned; a section without a failure passes, with the position of its first clamp if it has one. The positions of
records and steps count from 0, and a step's is coded with its record's (log entry 48); where the spec names no position
it is free (log entry 6); a repeat count is looked at for a PLAYER only (log entry 51). What is clamped is stored clamped: the tones of PATTERNS
as the dividers of R97, and a loadable pattern without a record is empty. -/
def Obligations.SectionFieldsAreChecked : Prop :=
  ∀ body : List Byte,
    let byte (o : Nat) : Nat := byteAt body o
    let word (o : Nat) : Nat := wordAt body o
    let at_ (n : Nat) : Word := BitVec.ofNat 16 n
    let free (k : SectKind) (o : Nat) : Word := Config.unstatedPosition k.num o
    let outside (lo hi v : Nat) : Bool := decide (v < lo ∨ hi < v)
    let checks (place : Word) (bad clamps : Bool) : Word × Option Code × Bool :=
      (place, if bad then some .badParam else none, clamps)
    let badPair (o : Nat) : Bool := outside 0 1023 (word o) || outside 0 1023 (word (o + 2)) || decide (word (o + 2) < word o)
    let repeats (number : Nat → Nat) (k : Nat) : Bool := (List.range k).any fun j => number j == number k
    let firstBad (xs : List (Word × Option Code × Bool)) : Option Judged :=
      xs.findSome? fun x => x.2.1.map fun c => .refused c x.1
    let judged (k : SectKind) (counts items : List (Word × Option Code × Bool)) (length : Nat) : Prop :=
      judgeChecks none (sectionChecks k body) =
        match firstBad counts with
        | some r => r
        | none => if body.length ≠ length then .refused .badParam 0
            else (firstBad items).getD (.passed ((items.find? fun x => x.2.2).map fun x => x.1))
    let n := word 0
    let pattern (k : Nat) : Nat := (List.range k).foldl (fun o _ => o + 2 + 8 * byte (o + 1)) 2
    let program (p : Nat) : Nat := (List.range p).foldl (fun o _ => o + 2 + 7 * word o + word o % 2) 2
    let time (e : Nat) : Nat := (word e + 65536 * byte (e + 2)) % 131072
    let action (e : Nat) : Nat := (word e + 65536 * byte (e + 2)) / 131072 % 4
    let player (k : Nat) : Bool := byte (3 + 16 * k) == 1
    judged .site []
      ((List.range 64).map (fun z => checks (at_ z) (decide (5 < byte (2 * z) ∨ 3 < byte (2 * z + 1))) false) ++
        (List.range 6).map (fun b => checks (at_ b)
          (decide (63 < byte (128 + 2 * b) ∧ byte (128 + 2 * b) ≠ 255 ∨ 63 < byte (129 + 2 * b))) false) ++
        (List.range 16).map fun a => checks (at_ a) (badPair (140 + 4 * a)) false) 204 ∧
    (let number (k : Nat) : Nat := byte (2 + 10 * k);
      judged .groups [checks (free .groups 0) (decide (127 < n)) false]
        ((List.range n).map fun k => checks (at_ k) (outside 1 127 (number k) || repeats number k) false) (2 + 10 * n)) ∧
    (let number (k : Nat) : Nat := byte (pattern k);
      judged .patterns (checks (free .patterns 0) (decide (4 < n)) false ::
          (List.range (min n 4)).map fun k => checks (at_ k) (decide (8 < byte (pattern k + 1))) false)
        ((List.range n).flatMap fun k =>
          let steps := (List.range (byte (pattern k + 1))).map fun i => (i, pattern k + 2 + 8 * i)
          [checks (at_ k) (outside 4 7 (number k) || repeats number k) false] ++
          (steps.map fun x => checks (at_ (256 * k + x.1)) (decide (255 < word (x.2 + 4) ∨ 255 < word (x.2 + 6)))
            (outside 200 4000 (word x.2) || (word (x.2 + 2) != 0 && outside 200 4000 (word (x.2 + 2))))) ++
          [checks (at_ k) (!steps.isEmpty && steps.all fun x => word (x.2 + 4) == 0 && word (x.2 + 6) == 0) false])
        (pattern n) ∧
      (∀ (k : Nat) (p : PatternId), k < n → (∀ j, k < j → j < n → number j ≠ number k) → p.val = number k →
        (patternsData body).at p = (List.range (byte (pattern k + 1))).map fun i =>
          let o := pattern k + 2 + 8 * i
          let divider (f : Nat) : Nat := let g := max 200 (min f 4000); (2 * 524288 + g) / (2 * g)
          { toneA := divider (word o), toneB := if word (o + 2) = 0 then none else some (divider (word (o + 2)))
            on := word (o + 4), off := word (o + 6) }) ∧
      ∀ p : PatternId, 4 ≤ p.val → (∀ k, k < n → number k ≠ p.val) → (patternsData body).at p = []) ∧
    judged .programs
      ([checks (free .programs 0) (outside 1 48 n) false] ++
        ((List.range (min n 48)).map fun p => checks (at_ (256 * p + (free .programs (p + 2)).toNat % 256))
          (decide (96 < word (program p))) false) ++
        [checks (free .programs 1) (decide (1024 < ((List.range (min n 48)).map fun p => word (program p)).sum)) false])
      ((List.range n).flatMap fun p => (List.range (word (program p))).map fun i =>
        let e := program p + 2 + 7 * i
        (at_ (256 * p + i),
          if 86399 < time e ∨ (action e = 1 ∧ 1 < byte (e + 6)) ∨ 127 < byte (e + 3) then some .badParam
          else if i ≠ 0 ∧ time e < time (e - 7) then some .order else none,
          (action e == 0 && outside 1 2400 (word (e + 5))) || (decide (action e ≤ 1) && outside 0 240 (byte (e + 4)))))
      (program n) ∧
    judged .calendar []
      ([checks (free .calendar 0) (decide (36524 < n)) false] ++
        ((List.range 400).map fun d => checks (free .calendar (2 + d)) (decide (15 < byte (2 + d))) false) ++
        ((List.range 16).map fun t => checks (free .calendar (402 + t))
          (outside 1 127 (byte (402 + t)) && byte (402 + t) != 255) false) ++
        ((List.range 8).flatMap fun g =>
          let o := 418 + 20 * g
          [checks (free .calendar o) (decide (63 < byte o)) false] ++
          ((List.range 16).map fun t => checks (free .calendar (o + 4 + t))
            (decide (47 < byte (o + 4 + t) ∧ byte (o + 4 + t) ≠ 255)) false) ++
          [checks (free .calendar (o + 2)) false (outside 0 300 (word (o + 2))),
           checks (free .calendar (o + 1)) (decide (1 < byte (o + 1))) false]) ++
        [checks (free .calendar 578) (decide (byte 578 ≠ 0 ∧ byte 578 ≠ 30 ∧ byte 578 ≠ 60)) false] ++
        ([580, 584].map fun o => checks (free .calendar o) (outside 1 12 (byte o) || outside 1 5 (byte (o + 1)) ||
          outside 0 6 (byte (o + 2)) || outside 0 23 (byte (o + 3))) false)) 588 ∧
    (let impulses (l : Nat) : Bool := byte (2 + 8 * l) == 1 || byte (2 + 8 * l) == 2;
      let q (l : Nat) : Nat := max 4 (min (byte (3 + 8 * l)) 120);
      judged .lines [checks (free .lines 0) (byte 0 != 8) false]
        ((List.range 8).map (fun l => checks (at_ l) (decide (3 < byte (2 + 8 * l)) || badPair (6 + 8 * l))
          (impulses l && (outside 4 120 (byte (3 + 8 * l)) || outside 1 (q l - 1) (byte (4 + 8 * l))))) ++
          [checks (free .lines 1) false (outside 1 8 (byte 1))]) 66 ∧
      (linesData body).budget = max 1 (min (byte 1) 8) ∧
      ∀ l : LineId, impulses l.val = true →
        ((linesData body).setups.at l).q = q l.val ∧
        ((linesData body).setups.at l).w = max 1 (min (byte (4 + 8 * l.val)) (q l.val - 1))) ∧
    (let number (k : Nat) : Nat := byte (2 + 16 * k);
      let kept (k : Nat) (p : Profile) : Prop :=
        p.preAlertSec = min (word (4 + 16 * k)) 600 ∧ p.limitSec = max 60 (min (word (10 + 16 * k)) 3600) ∧
        p.autoSec = min (word (12 + 16 * k)) 3600 ∧ p.clearDuration = max 1 (min (word (16 + 16 * k)) 2400) ∧
        ∀ c m r, p.preAlert = .player c m r → r = max 1 (min (byte (8 + 16 * k)) 4);
      judged .drills [checks (free .drills 0) (decide (7 < n)) false]
        ((List.range n).map fun k =>
          let o := 2 + 16 * k
          checks (at_ k) (outside 1 7 (number k) || repeats number k || decide (1 < byte (o + 1) ∨
              (if player k then 1 else 7) < byte (o + 4) ∨ 7 < byte (o + 7) ∨ 7 < byte (o + 12)))
            (outside 0 600 (word (o + 2)) || (player k && outside 1 4 (byte (o + 6))) ||
              outside 60 3600 (word (o + 8)) || outside 0 3600 (word (o + 10)) || outside 1 2400 (word (o + 14))))
        (2 + 16 * n) ∧
      ∀ (m : ProfileId) (p : Profile), m ≠ 0 → (drillsData body).at m = some p → ∃ k, k < n ∧ number k = m.val ∧ kept k p) ∧
    (∀ (p : ProgId) (i : Nat) (e : Entry), p.val < n → ((programsData body).at p)[i]? = some e →
      let o := program p.val + 2 + 7 * i
      e.time = time o ∧ (e.action = .ring → e.duration = max 1 (min (word (o + 5)) 2400)) ∧
      (e.action = .ring ∨ e.action = .cue → e.deferLimit = min (byte (o + 4)) 240)) ∧
    ∀ g : SchedId, ((calendarData body).groups.at g).grace = min (word (420 + 20 * g.val)) 300

/-- LOAD_COPY_END (R168): a section whose header does not agree answers CHECKSUM; one that a check refuses, the check's
code and position; one whose condition does not hold, STATE; and in these cases no image, changed mark or table changes.
Otherwise its bytes become the section's image, changed, its tables stand, each of them, and the answer is OK, or CLAMPED
with the position of the first clamp; that the position is 0 for CHECKSUM, STATE and OK is log entry 8. What the install
does beside leads to v; then the event is carried out whole. LINES (R146): no grants, no waiting list, nothing passed on, and
K; each line takes kind, q and w. With its kind unchanged it keeps its record, but ADVANCE_WAIT, ADVANCING and HOLDING become
IN_STEP without a fast timer (reports: log entry 28); with another kind what is in flight is cut, its select request
withdrawn, flag, count, mark and timers are gone, and it starts UNKNOWN, IN_STEP if coded, or DISABLED. Then every impulse
line in IN_STEP is decided, ascending. PROGRAMS and CALENDAR (R50): every WORKING group switches to its date's selection at
the current second. CALENDAR, GROUPS and SITE (R30): today's type is found again, and the day-quiet set is handed. A CALENDAR
install ends with the DST rule, and hands a move on where civil time or the flag changed (R16, R17; its place: log entry 29), and none where neither did (log
entry 63).
SITE (R67): overrides and fault flags stay, and the scheduled-quiet marks are handed again. -/
def Obligations.LoadInstallsASection : Prop :=
  let quietRight (v : State) : Prop := ∀ z, (v.zone z).dayQuiet = true ↔ ∃ y q, v.cal.todayType = some y ∧
    v.cal.quietGroup.at y = some q ∧ Mask.has (v.router.groups.at q) z.val = true
  let switched (s v : State) : Prop := (s.quietMarksRight → ∀ z, (v.zone z).schedQuiet = Mask.has v.bell.quietZones z.val) ∧
    ∀ g : SchedId, let r := s.groupWork g
      (r.working = false ∨ r.date = none → v.groupWork g = r ∧ v.bell.resume.at g = s.bell.resume.at g) ∧
      ∀ d, r.working = true → r.date = some d → (∀ b : BuildingId, (v.bell.resume.at g).at b = none) ∧
        v.groupWork g = { r with program := (v.cal.groups.at g).progMap.at (v.cal.typeOf d), quiet := 0
                                 watermark := max r.watermark s.civil.sec }
  ∀ (i : CellId) (tag : Word) (k : SectKind) (o : Nat) (bytes : List Byte) (s : State), s.up = true →
    s.power.storeOp = some (.load i tag k o bytes.length bytes true) →
    let idle : State := s.onPower fun p => { p with storeOp := none }
    let body := bytes.drop 6
    let agrees : Prop := wordAt bytes 0 = k.num ∧ wordAt bytes 2 + 6 = bytes.length ∧
      BitVec.ofNat 16 (wordAt bytes 4) = byteSum body
    let refused (c : Code) (p : Word) : Prop := ∃ t, exec .loadCopyEnd s = .next t ∧
      Answered i .load tag ⟨c, p, leBytes 1 c.num ++ leBytes 1 k.num ++ wordBytes p⟩ s t ∧ HostSide idle t
    (¬ agrees → refused .checksum 0) ∧
    (∀ c p, agrees → judgeChecks none (sectionChecks k body) = .refused c p → refused c p) ∧
    ∀ first, agrees → judgeChecks none (sectionChecks k body) = .passed first →
      ((k = .site → ∃ b, s.router.view.at b ≠ .quiet) → (k = .drills → ∃ b, s.inDrill b = true) →
        k = .site ∨ k = .drills → refused .state 0) ∧
      ((k = .site → ∀ b, s.router.view.at b = .quiet) → (k = .drills → ∀ b, s.inDrill b = false) →
        let answer : Answer := match first with
          | none => ⟨.ok, 0, [0, BitVec.ofNat 8 k.num, 0, 0]⟩
          | some p => ⟨.clamped, p, [1, BitVec.ofNat 8 k.num] ++ wordBytes p⟩
        let held : State := s.onPower fun p => { p with
          images := p.images.put k.index (some bytes), changed := p.changed.put k.index true }
        ∃ t v, exec .loadCopyEnd s = .next t ∧ t = (v.whole.finishOp i .load tag answer).keep ∧
          Answered i .load tag answer s t ∧
          t.power = { s.power with
            storeOp := none, retained := t.power.retained
            images := s.power.images.put k.index (some bytes), changed := s.power.changed.put k.index true } ∧
          t.pins = s.pins ∧ t.pending = s.pending ∧ t.time.elapsed = s.time.elapsed ∧
          t.time.stdSec = s.time.stdSec ∧ t.time.quality = s.time.quality ∧
          (k = .groups → t.router.groups = groupsData body ∧ quietRight v ∧ v.bell = s.bell ∧
            SoundSide (held.onRouter fun r => { r with groups := groupsData body }) v) ∧
          (k = .patterns → t.tone.patterns = patternsData body ∧
            v = held.onTone fun r => { r with patterns := patternsData body }) ∧
          (k = .programs → t.bell.programs = programsData body ∧ switched s v ∧
            SoundSide (held.onBell fun r => { r with programs := programsData body }) v) ∧
          (k = .drills → t.drill.profiles = drillsData body ∧
            v = held.onDrill fun r => { r with profiles := drillsData body }) ∧
          (k = .lines → t.line.budget = (linesData body).budget ∧
            (∀ l : LineId, (⟨(t.clock l).kind, (t.clock l).q, (t.clock l).w⟩ : LineSetup) = (linesData body).setups.at l) ∧
            (∀ l : LineId, (t.channel (lineChannel l)).openT = wordAt body (6 + 8 * l.val) ∧
              (t.channel (lineChannel l)).shortT = wordAt body (8 + 8 * l.val)) ∧
            (∀ a : Fin 16, t.channel (ampChannel a) = s.channel (ampChannel a)) ∧
            ∃ u, LineSide held u ∧ Pages s u ∧
              v = (List.finRange 8).foldl (fun x l =>
                if ((x.clock l).kind = .minute ∨ (x.clock l).kind = .halfMinute) ∧ (x.clock l).state = .inStep
                then x.triggerLine l else x) u ∧
              u.line = { s.line with grants := [], waiting := [], budget := (linesData body).budget, lines := u.line.lines } ∧
              (let cut (l : LineId) : Bool := (s.clock l).kind != ((linesData body).setups.at l).kind;
                u.scan = { s.scan with channels := u.scan.channels, converter := u.scan.converter
                                       queue := s.scan.queue.filter fun l => !cut l } ∧
                (∀ l, s.scan.converter = some ⟨lineChannel l, .select true⟩ → cut l = true →
                  u.scan.converter = some ⟨lineChannel l, .select false⟩) ∧
                ((∀ l, cut l = true → s.scan.converter ≠ some ⟨lineChannel l, .select true⟩) →
                  u.scan.converter = s.scan.converter)) ∧
              ∀ l : LineId, let r := s.clock l
                let x := (linesData body).setups.at l
                let left : Prop := r.state = .advanceWait ∨ r.state = .advancing ∨ r.state = .holding
                (x.kind = r.kind → u.clock l = { r with
                  q := x.q, w := x.w, state := if left then .inStep else r.state
                  fastTimer := if left then none else r.fastTimer }) ∧
                (x.kind ≠ r.kind → u.clock l = { r with
                  kind := x.kind, q := x.q, w := x.w, inflight := none, stopped := false, failCount := 0, reeval := false
                  fastTimer := none, probeTimer := none, probeAsked := false, outputOff := false, display := none
                  polarity := .a, state := match x.kind with
                    | .disabled => .disabled | .coded => .inStep | .minute => .unknown | .halfMinute => .unknown })) ∧
          (k = .calendar → t.time.dst = (calendarData body).dst ∧ t.cal.base = (calendarData body).base ∧
            t.cal.dayMap = (calendarData body).dayMap ∧ t.cal.quietGroup = (calendarData body).quiet ∧
            t.cal.groups = (calendarData body).groups ∧
            ∃ u, SoundSide (held.onCal fun _ => u.cal) u ∧ switched s u ∧ quietRight u ∧
              u.cal = { s.cal with
                base := t.cal.base, dayMap := t.cal.dayMap, quietGroup := t.cal.quietGroup, groups := t.cal.groups
                todayType := s.cal.today.map u.cal.typeOf } ∧
              let flag := (calendarData body).dst.inForceAt s.time.stdSec
              let ruled := u.onTime fun r => { r with dst := (calendarData body).dst, dstInForce := flag }
              let cause : MoveCause := if s.time.dstInForce = flag then .dstRule else if flag then .dstStart else .dstEnd
              let change : DstChange := if s.time.dstInForce = flag then .unchanged
                else if flag then .nowInForce else .noLonger
              v = if s.civil = ruled.civil ∧ s.time.dstInForce = flag then ruled
                else ruled.handMove ⟨some s.civil, ruled.civil, cause, change⟩) ∧
          (k = .site → t.router.monitor = (siteData body).monitor ∧ t.router.spread = (siteData body).spread ∧
            (∀ z : ZoneId, ((t.zone z).building, (t.zone z).base) = (siteData body).zones.at z) ∧
            (∀ b : BuildingId, t.router.maps.at b = (mapsOf t.router.zones).at b) ∧
            (∀ a : Fin 16, (t.channel (ampChannel a)).openT = wordAt body (140 + 4 * a.val) ∧
              (t.channel (ampChannel a)).shortT = wordAt body (142 + 4 * a.val)) ∧
            (∀ l : LineId, t.channel (lineChannel l) = s.channel (lineChannel l)) ∧
            quietRight v ∧ ∀ z, (v.zone z).schedQuiet = Mask.has v.bell.quietZones z.val ∧
              (t.zone z).override = (s.zone z).override ∧ (t.zone z).fault = (s.zone z).fault))


/-! ### Room clock lines and supervision (chapters 8 and 9) -/

/-- IMPULSE_SELECT_REQUEST (R130, R141, R149, R150): once half its width has passed, which for a frame is at its start, an
impulse asks for its select conversion, which begins at once when the converter is idle, and else joins the end of the
queue. FAST_IMPULSE and PROBE_TIMER_EXPIRY (R129, R137, R140): a due fast impulse starts on the line's next polarity for its
width, the next one q eighths on; a due probe starts, a frame on a coded line, which asks among the requests of its
boundary, or at once between boundaries (log entry 12), with no probe timer left. Without mains or set time neither is
issued, and their timers run on, the fast one by q (log entry 27). Before its instant nothing happens (log entry 11). The
outputs, in RUNNING and NORMAL and off else (R129, R141): an impulse in flight drives the enable of its polarity; a coded line's A
output is held on between frames, but off outside IN_STEP and after a SHORT, and a frame of eight bytes takes 80 bit times, for each
byte off, its eight bits with the least significant first, and on (that a bit 1 is on is log entry 16). -/
def Obligations.SelectRequestsFastImpulsesAndProbes : Prop :=
  (∀ (l : LineId) (s : State),
    (∀ imp, s.up = true → (s.clock l).inflight = some imp → imp.asked = false →
      imp.start + imp.width / 2 ≤ s.time.elapsed →
      let asked := s.onClock l fun r => { r with inflight := some { imp with asked := true } }
      (s.scan.converter = none → s.scan.queue = [] → exec (.impulseSelectRequest l) s = .next
        (asked.onScan fun r => { r with converter := some ⟨lineChannel l, .select true⟩ }).keep) ∧
      (s.scan.converter ≠ none → l ∉ s.scan.queue → exec (.impulseSelectRequest l) s = .next
        (asked.onScan fun r => { r with queue := r.queue ++ [l] }).keep)) ∧
    (s.up = false ∨ (∀ imp, (s.clock l).inflight = some imp → imp.asked = true ∨
        s.time.elapsed < imp.start + imp.width / 2) →
      exec (.impulseSelectRequest l) s = .next s.keep)) ∧
  ∀ (l : LineId) (s : State),
    let r := s.clock l
    let impulse (k : ImpulseKind) : Impulse := ⟨k, false, [], s.time.elapsed, r.w, r.polarity, false, none, false⟩
    let driven : Prop := s.power.power = .normal ∧ s.time.quality ≠ .unset
    let fast : Prop := s.up = true ∧ r.state = .advancing ∧ r.inflight = none ∧
      ∃ e, r.fastTimer = some e ∧ e ≤ s.time.elapsed
    let probe : Prop := s.up = true ∧ r.state = .fault ∧ r.inflight = none ∧
      ∃ e, r.probeTimer = some e ∧ e ≤ s.time.elapsed
    (fast → driven → exec (.fastImpulse l) s = .next (s.onClock l fun x =>
      { x with inflight := some (impulse .fast), fastTimer := some (s.time.elapsed + x.q) }).keep) ∧
    (fast → ¬ driven → exec (.fastImpulse l) s = .next (s.onClock l fun x =>
      { x with fastTimer := some (s.time.elapsed + x.q) }).keep) ∧
    (¬ fast → exec (.fastImpulse l) s = .next s.keep) ∧
    (probe → driven → r.kind ≠ .coded → exec (.probeTimerExpiry l) s = .next (s.onClock l fun x =>
      { x with inflight := some (impulse .probe), probeTimer := none, probeAsked := false }).keep) ∧
    (probe → driven → r.kind = .coded → ∃ t, exec (.probeTimerExpiry l) s = .next t ∧
      t.line = (s.onClock l fun x => { x with
        inflight := some ⟨.probe, true, s.frameBytes, s.time.elapsed, 1, .a, !s.time.atBoundary, none, false⟩
        probeTimer := none, probeAsked := false, outputOff := false }).line ∧
      (s.time.atBoundary = true → t.scan = s.scan) ∧
      (s.time.atBoundary = false → s.scan.converter = none → s.scan.queue = [] →
        t.scan = { s.scan with converter := some ⟨lineChannel l, .select true⟩ }) ∧
      (s.time.atBoundary = false → s.scan.converter ≠ none → l ∉ s.scan.queue →
        t.scan = { s.scan with queue := s.scan.queue ++ [l] }) ∧
      LineSide s t ∧ Pages s t) ∧
    (probe → ¬ driven → exec (.probeTimerExpiry l) s = .next (s.onClock l fun x =>
      { x with probeTimer := some (s.time.elapsed + 480) }).keep) ∧
    (¬ probe → exec (.probeTimerExpiry l) s = .next s.keep) ∧
    let served : Prop := s.up = true ∧ s.power.power = .normal
    (∀ p, s.enableDriven l = some p ↔ served ∧ ∃ imp, r.inflight = some imp ∧ imp.coded = false ∧ imp.polarity = p) ∧
    (r.inflight = none → ∀ bit, s.codedOutput l bit = true ↔
      served ∧ r.kind = .coded ∧ r.state = .inStep ∧ r.outputOff = false) ∧
    (∀ imp, r.inflight = some imp → ¬ served ∨ imp.coded = false → ∀ bit, s.codedOutput l bit = false) ∧
    ∀ imp, r.inflight = some imp → imp.coded = true → served → imp.bytes.length = 8 →
      (∀ bit, 80 ≤ bit → (s.codedOutput l bit = true ↔ r.state = .inStep)) ∧
      ∀ (k : Nat) (b : Byte), imp.bytes[k]? = some b → s.codedOutput l (10 * k) = false ∧
        s.codedOutput l (10 * k + 9) = true ∧ ∀ j, j < 8 → s.codedOutput l (10 * k + 1 + j) = b.getLsbD j

/-- R129, R139, R141: a civil second boundary at the lines. With supply mains, set time and the blocks running, an impulse
line in IN_STEP or ADVANCE_WAIT starts its normal impulse at a target-unit boundary, on its next polarity for its width;
a coded line in IN_STEP starts its frame, of the civil time that begins, or sends it once the one in flight has ended,
one for all that met it (log entry 60); an impulse line in HOLDING whose target comes to its display enters IN_STEP and issues none. Nothing else of the lines
changes. R135, R136, R134: a time move reaches the lines in ascending number, each impulse line in a deciding state with its
decision, kept for later while an impulse is in flight, and each coded line with a frame. That a line whose impulse is still
in flight at a boundary starts none is log entry 23, and that a frame between boundaries asks for its conversion at once, and
one at a boundary with the requests of that instant, as the earlier ones left them, is log entry 12; that a trigger without
set time or mains leaves no mark, an impulse in flight or not, is log entry 56. A decision moves a line by its table: asking, it is granted while fewer than K grants stand, or joins the list's end; leaving, its grant or place goes,
and the head of the list is granted while fewer than K stand. -/
def Obligations.LinesAtBoundariesMovesAndTheArbiter : Prop :=
  let driven (s : State) : Prop := s.up = true ∧ s.power.power = .normal ∧ s.time.quality ≠ .unset
  (∀ (c : CivilTime) (s : State),
    let t := s.lineBoundary c
    let day := dateOf s.civil.day
    let sec := s.civil.sec
    let head : List Byte := leBytes 1 (day.year % 100) ++ leBytes 1 day.month ++ leBytes 1 day.day ++
      leBytes 1 (weekdayOf s.civil.day + (if s.time.dstInForce then 8 else 0) + 16 * s.time.quality.num) ++
      leBytes 1 (sec / 3600) ++ leBytes 1 (sec / 60 % 60) ++ leBytes 1 (sec % 60)
    let frame : Impulse :=
      ⟨.frame, true, head ++ [head.foldl (fun a b => a ^^^ b) 0], s.time.elapsed, 1, .a, !s.time.atBoundary, none, false⟩
    LineSide s t ∧ Pages s t ∧ (s.time.atBoundary = true → t.scan = s.scan) ∧
    t.line = { s.line with lines := t.line.lines } ∧
    ∀ l : LineId,
      let r := s.clock l
      let unit : Prop := (r.kind = .minute ∧ c.sec % 60 = 0) ∨ (r.kind = .halfMinute ∧ c.sec % 30 = 0)
      let issues : Prop := unit ∧ driven s ∧ r.inflight = none ∧ (r.state = .inStep ∨ r.state = .advanceWait)
      let target := if r.kind = .minute then c.sec / 60 % 720 else c.sec / 30 % 1440
      let reached : Prop := unit ∧ r.state = .holding ∧ r.display = some target
      let sends : Prop := r.kind = .coded ∧ r.state = .inStep ∧ driven s
      (issues → t.clock l = { r with
        inflight := some ⟨.normal, false, [], s.time.elapsed, r.w, r.polarity, false, none, false⟩ }) ∧
      (reached → t.clock l = { r with state := .inStep }) ∧
      (sends → r.inflight = none → t.clock l = { r with inflight := some frame, outputOff := false }) ∧
      (sends → r.inflight ≠ none → t.clock l = { r with reeval := true }) ∧
      (¬ issues → ¬ reached → ¬ sends → t.clock l = r)) ∧
  (∀ s : State, s.lineMove = (List.finRange 8).foldl (fun u l =>
      if (u.clock l).kind = .coded then u.codedFrame l
      else if (u.clock l).state = .inStep ∨ (u.clock l).state = .advanceWait ∨ (u.clock l).state = .advancing ∨
          (u.clock l).state = .holding then u.triggerLine l else u) s ∧
    ∀ l : LineId, (¬ driven s → s.triggerLine l = s) ∧
      (driven s → (s.clock l).inflight ≠ none → s.triggerLine l = s.onClock l fun r => { r with reeval := true }) ∧
      (driven s → (s.clock l).inflight = none → s.triggerLine l = s.decideLine l)) ∧
  ∀ (l : LineId) (v : Verdict) (s : State), s.line.arbiterRight →
    let r := s.clock l
    let t := s.applyVerdict l v
    let at_ := if s.time.atBoundary then s.time.elapsed else s.time.elapsed + 1
    let granted (x : Line) : Line :=
      { x with state := .advancing, fastTimer := if x.inflight.isSome then none else some at_ }
    let others : Prop := ∀ m, m ≠ l → t.clock m = s.clock m
    let stands : Prop := t.line.grants = s.line.grants ∧ t.line.waiting = s.line.waiting ∧ others
    let asks : Prop := v = .advance ∧ (r.state = .inStep ∨ r.state = .holding)
    let leaves : Prop := (v = .inStep ∨ v = .hold) ∧ (r.state = .advanceWait ∨ r.state = .advancing)
    let left : List LineId := s.line.grants.filter fun m => m != l
    let wait : List LineId := s.line.waiting.filter fun m => m != l
    let heads : List LineId := wait.take (s.line.budget - left.length)
    LineSide s t ∧ Pages s t ∧
    (asks → s.line.grants.length < s.line.budget → t.clock l = granted r ∧ t.line.waiting = s.line.waiting ∧ others ∧
      ∀ m, m ∈ t.line.grants ↔ m = l ∨ m ∈ s.line.grants) ∧
    (asks → s.line.budget ≤ s.line.grants.length → t.clock l = { r with state := .advanceWait } ∧ others ∧
      t.line.grants = s.line.grants ∧ t.line.waiting = s.line.waiting ++ [l]) ∧
    (leaves → t.clock l = { r with state := if v = .hold then .holding else .inStep, fastTimer := none } ∧
      (∀ m, m ∈ t.line.grants ↔ m ∈ left ∨ m ∈ heads) ∧ t.line.waiting = wait.drop (s.line.budget - left.length) ∧
      ∀ m, m ≠ l → t.clock m = if m ∈ heads then granted (s.clock m) else s.clock m) ∧
    (r.state = .inStep → v = .hold → t.clock l = { r with state := .holding } ∧ stands) ∧
    (r.state = .holding → v = .inStep → t.clock l = { r with state := .inStep } ∧ stands) ∧
    (¬ asks → ¬ leaves → ¬ (r.state = .inStep ∧ v = .hold) → ¬ (r.state = .holding ∧ v = .inStep) → t = s)

/-- IMPULSE_END and CODED_FRAME_END (R130, R131, R137, R140, R141, R156): what the verdict does. Delivered, with OK or
no result kept: the failure count goes to 0, an impulse that the host did not overrule advances the display and toggles
the polarity, and the channel is OK. Failed: the failure count goes up, the channel takes the result's class, and at 2
the line enters FAULT, out of the arbiter, its probe 480 eighths on. A delivered probe ends FAULT; a failed one is
repeated. An ADVANCING line that finds its lag gone has caught up. Other lines can only be granted. R131: of a line that
its impulse's end does not take to FAULT, and that was not in it, a pending decision runs at the end, its mark cleared; without
one, a line IN_STEP that finds a lag decides, and one still ADVANCING goes on with its fast impulses; in the other states nothing
more comes. Without set time or mains no decision runs (R135). An impulse that has not run its width, and a line without an
impulse or frame of the kind named, has none to end (log entry 11). -/
def Obligations.VerdictsOfImpulses : Prop :=
  ∀ (l : LineId) (imp : Impulse) (s : State), s.up = true → (s.clock l).inflight = some imp →
    (imp.coded = false → imp.start + imp.width ≤ s.time.elapsed → ∃ t, exec (.impulseEnd l) s = .next t ∧
      VerdictActs l imp s t ∧ (t.clock l).inflight = none) ∧
    (imp.coded = true → ∃ t, exec (.codedFrameEnd l) s = .next t ∧
      VerdictActs l imp s.between t ∧ ((s.clock l).reeval = false → (t.clock l).inflight = none)) ∧
    (imp.coded = true ∨ s.time.elapsed < imp.start + imp.width → exec (.impulseEnd l) s = .next s.keep) ∧
    (imp.coded = false → exec (.codedFrameEnd l) s = .next s.between.keep) ∧
    (imp.coded = false → imp.start + imp.width ≤ s.time.elapsed →
      let r := s.clock l
      let delivered : Bool := imp.result == none || imp.result == some .ok
      let moves : Bool := delivered && !imp.hostSet
      let display := if moves = true then r.display.map fun d => (d + 1) % r.kind.period else r.display
      let ended : Line := { r with
        display := display, inflight := none, reeval := false, failCount := if delivered = true then 0 else r.failCount + 1
        polarity := if moves = true then (match r.polarity with | .a => .b | .b => .a) else r.polarity }
      let driven : Prop := s.power.power = .normal ∧ s.time.quality ≠ .unset
      let next := if s.time.atBoundary then s.time.elapsed else s.time.elapsed + 1
      let late : Prop := ∃ d, display = some d ∧ s.lineLag l d ≠ 0
      r.state ≠ .fault → (delivered = true ∨ r.failCount = 0) →
      ∃ u, LineSide s u ∧ u.rh = s.rh ∧ u.mem = s.mem ∧ u.line = (s.onClock l fun _ => ended).line ∧
        (r.reeval = true → driven → exec (.impulseEnd l) s = .next ((u.decideLine l).armFast l).keep) ∧
        (r.reeval = true → ¬ driven → exec (.impulseEnd l) s = .next (u.armFast l).keep) ∧
        (r.reeval = false → r.state = .inStep → driven ∧ late → exec (.impulseEnd l) s = .next (u.decideLine l).keep) ∧
        (r.reeval = false → r.state = .inStep → ¬ (driven ∧ late) → exec (.impulseEnd l) s = .next u.keep) ∧
        (r.reeval = false → r.state = .advancing → (display = none ∨ late) → exec (.impulseEnd l) s = .next
          (u.onClock l fun x => { x with fastTimer := some (r.fastTimer.getD next) }).keep) ∧
        (r.reeval = false → r.state ≠ .inStep → r.state ≠ .advancing → exec (.impulseEnd l) s = .next u.keep) ∧
        u.armFast l = if r.state = .advancing ∧ r.fastTimer = none then
          u.onClock l fun x => { x with fastTimer := some next } else u)

/-- R128, R133: the correction decision of an impulse line. The lag is the target less the display, mod P, and 0 means
IN_STEP; otherwise, with lead H = P - L, the decision is ADVANCE if L·q·U ≤ (U - q)·(H·U - φ), its expected duration
L·q·U divided by U - q, rounded up, and HOLD otherwise, for H·U - φ. Each decision hands one LINE_DECISION record with
these values over, and the line's last decision takes them. -/
def Obligations.CorrectionDecision : Prop :=
  ∀ (l : LineId) (d : Nat) (s : State), (s.clock l).kind.impulses = true → s.time.eighth ≤ 7 →
    (s.clock l).q ≤ 120 →
    let P : Int := if (s.clock l).kind = .minute then 720 else 1440
    let U : Int := if (s.clock l).kind = .minute then 480 else 240
    let C : Int := s.civil.sec
    let q : Int := (s.clock l).q
    let T : Int := (8 * C / U) % P
    let φ : Int := (8 * C) % U + s.time.eighth
    let L : Int := (T - d) % P
    let H : Int := P - L
    let dec := s.lineDecision l d
    (L = 0 → dec = ⟨.inStep, 0, 0, 0⟩) ∧
    (L ≠ 0 → (dec.lag : Int) = L ∧ (dec.lead : Int) = H ∧
      (L * q * U ≤ (U - q) * (H * U - φ) → dec.verdict = .advance ∧
        ((dec.expected : Int) - 1) * (U - q) < L * q * U ∧ L * q * U ≤ dec.expected * (U - q)) ∧
      (¬ L * q * U ≤ (U - q) * (H * U - φ) → dec.verdict = .hold ∧ (dec.expected : Int) = H * U - φ)) ∧
    ((s.clock l).display = some d → (s.clock l).state.decides = true → s.decideLine l =
      ((s.onClock l fun r => { r with last := some dec }).report (.lineDecision l dec)).applyVerdict l dec.verdict)

/-- LINE_SET_DISPLAY (R142): a line, polarity or kind that does not exist or has no display is BAD_PARAM, and a position
outside the dial RANGE. Otherwise the line shows the position with that polarity next, an impulse in flight is
overruled, UNKNOWN becomes a deciding state, STOPPED and FAULT stay, and the answer gives the display and polarity
before and the state after. Driven and with nothing in flight, a deciding line is decided at once; with an impulse in
flight, when it ends. -/
def Obligations.SetDisplay : Prop :=
  ∀ (i : CellId) (tag : Word) (line polarity : Byte) (position : Word) (s : State), s.takes i →
    let c : Instr := .lineSetDisplay i tag line polarity position
    let refused (code : Code) : Prop :=
      ∃ t, exec c s = .next t ∧ Answered i .lineSetDisplay tag ⟨code, 0, []⟩ s t ∧ HostSide s t
    (7 < line.toNat ∨ 1 < polarity.toNat → refused .badParam) ∧
    ∀ l : LineId, l.val = line.toNat → polarity.toNat ≤ 1 →
      let r := s.clock l
      (r.kind.impulses = false → refused .badParam) ∧
      (r.kind.impulses = true → r.kind.period ≤ position.toNat → refused .range) ∧
      (r.kind.impulses = true → position.toNat < r.kind.period → ∃ t, exec c s = .next t ∧ LineSide s t ∧
        let q := t.clock l
        Answered i .lineSetDisplay tag ⟨.ok, 0, leBytes 2 (match r.display with | some d => d | none => 0xFFFF) ++
          [BitVec.ofNat 8 r.polarity.num, BitVec.ofNat 8 q.state.num]⟩ s t ∧
        q = { r with
          display := some position.toNat, polarity := if polarity = 0 then .a else .b
          inflight := r.inflight.map fun imp => { imp with hostSet := true }
          state := q.state, reeval := q.reeval, fastTimer := q.fastTimer, last := q.last } ∧
        (r.state = .unknown ∨ r.state.decides = true → q.state.decides = true) ∧
        (r.state ≠ .unknown → r.state.decides = false →
          q.state = r.state ∧ q.reeval = r.reeval ∧ q.fastTimer = r.fastTimer ∧ q.last = r.last) ∧
        (r.state = .unknown ∨ r.state.decides = true → s.power.power = .normal → s.time.quality ≠ .unset →
          (r.inflight = none → q.last = some (s.lineDecision l position.toNat)) ∧
          (r.inflight ≠ none → q.reeval = true ∧ q.last = r.last)))

/-- LINE_CONTROL (R143, R144): STOP takes a line from any state to STOPPED, out of the arbiter, its timers and counts
gone, the impulse in flight left to end; RUN takes a STOPPED impulse line whose display is unknown to UNKNOWN, and any other
STOPPED line to IN_STEP, with its report. R135: an impulse line that RUN takes to IN_STEP with a known display, or finds in
IN_STEP, ADVANCE_WAIT, ADVANCING or HOLDING, is decided at once (CorrectionDecision says how), with nothing in flight, and when
the impulse in flight ends otherwise; without mains or set time nothing is done, and no mark set (log entry 56). A coded line is
unchanged there, and one in UNKNOWN too; FAULT is refused STATE. PROBE asks for a probe, which
starts at the next eighth boundary (EighthBoundaryWork), of a line in FAULT under mains power, is refused STATE otherwise, BUSY
with an impulse in flight, and NOT_READY in UNSET time. A line that does not exist or is DISABLED is BAD_PARAM. The answer gives
the state before. -/
def Obligations.LineControl : Prop :=
  ∀ (i : CellId) (tag : Word) (line : Byte) (s : State), s.takes i →
    let refused (c : Instr) (code : Code) : Prop :=
      ∃ t, exec c s = .next t ∧ Answered i .lineControl tag ⟨code, 0, []⟩ s t ∧ HostSide s t
    let bad : Prop := ∀ l : LineId, l.val = line.toNat → (s.clock l).kind = .disabled
    (bad → refused (.lineControlStop i tag line) .badParam ∧ refused (.lineControlRun i tag line) .badParam ∧
      (s.time.quality ≠ .unset → refused (.lineControlProbe i tag line) .badParam)) ∧
    (s.time.quality = .unset → refused (.lineControlProbe i tag line) .notReady) ∧
    ∀ l : LineId, l.val = line.toNat → (s.clock l).kind ≠ .disabled →
      let r := s.clock l
      let done (c : Instr) (t : State) : Prop := exec c s = .next t ∧ LineSide s t ∧
        Answered i .lineControl tag ⟨.ok, 0, [BitVec.ofNat 8 r.state.num]⟩ s t
      (r.state = .stopped → ∃ t, done (.lineControlStop i tag line) t ∧ HostSide s t) ∧
      (r.state ≠ .stopped → ∃ t, done (.lineControlStop i tag line) t ∧
        t.clock l = { r with
          state := .stopped, stopped := true, fastTimer := none, probeTimer := none, probeAsked := false
          reeval := false, failCount := 0 } ∧
        l ∉ t.line.grants ∧ l ∉ t.line.waiting) ∧
      let driven : Prop := s.power.power = .normal ∧ s.time.quality ≠ .unset
      let decided (u : State) (d : Nat) (t : State) : Prop :=
        (t.clock l).last = some (s.lineDecision l d) ∧ (t.clock l).state.decides = true ∧
        t = ((u.decideLine l).complete i 13 tag ⟨.ok, 0, [BitVec.ofNat 8 r.state.num]⟩).keep
      (r.state = .stopped → ∃ t, done (.lineControlRun i tag line) t ∧
        let next : LineState := if r.kind ≠ .coded ∧ r.display = none then .unknown else .inStep
        let u := ((s.posted i .lineControl tag [line, 1]).onClock l fun x =>
          { x with stopped := false, state := next }).report (.lineState l .stopped next .run)
        (t.clock l).stopped = false ∧ (t.clock l).display = r.display ∧ (t.clock l).polarity = r.polarity ∧
        (r.kind = .coded ∨ r.display = none ∨ ¬ driven → t.line = u.line) ∧
        ∀ d, r.kind ≠ .coded → r.display = some d → driven →
          (r.inflight ≠ none → t.line = (u.onClock l fun x => { x with reeval := true }).line) ∧
          (r.inflight = none → decided u d t)) ∧
      (r.state = .fault → refused (.lineControlRun i tag line) .state) ∧
      (r.state = .unknown → ∃ t, done (.lineControlRun i tag line) t ∧ HostSide s t) ∧
      (r.state ≠ .stopped → r.state ≠ .fault → ∃ t, done (.lineControlRun i tag line) t) ∧
      (r.state.decides = true → ∃ t, done (.lineControlRun i tag line) t ∧
        (r.kind = .coded ∨ r.display = none ∧ r.inflight = none ∨ ¬ driven → HostSide s t) ∧
        (r.kind ≠ .coded → driven → r.inflight ≠ none → t.line = (s.onClock l fun x => { x with reeval := true }).line) ∧
        ∀ d, r.kind ≠ .coded → r.display = some d → driven → r.inflight = none →
          decided (s.posted i .lineControl tag [line, 1]) d t) ∧
      (s.time.quality ≠ .unset →
        (r.state ≠ .fault ∨ s.power.power ≠ .normal → refused (.lineControlProbe i tag line) .state) ∧
        (r.state = .fault → s.power.power = .normal → r.inflight ≠ none →
          refused (.lineControlProbe i tag line) .busy) ∧
        (r.state = .fault → s.power.power = .normal → r.inflight = none →
          ∃ t, done (.lineControlProbe i tag line) t ∧ t.line = (s.onClock l fun x => { x with probeAsked := true }).line))

/-- CONVERSION_END (R149 to R152, R154, R64): the reading joins the channel's history of four, and the head of the select
queue is converted next. A SCAN reading moves the scan on; where three readings of the history have one class, the
amplifier takes it, and at a change its four zones' fault flags follow. A SELECT reading is kept with the line's impulse
in flight, and is handed to no one where that has ended; a SHORT ends the impulse at once, with the verdict of a failed
one: the failure count has risen, at 2 to FAULT, and without a pending decision nothing is in flight any more. For a
coded line's frame that is log entry 24. The end of a conversion comes between boundaries, once the requests of the boundary
before it are made (log entry 12). With none in progress nothing happens (log entry 11). -/
def Obligations.ConversionEnds : Prop :=
  (∀ (reading : BitVec 10) (s : State), (s.up = false → exec (.conversionEnd reading) s = .next s.keep) ∧
    (s.up = true → s.between.scan.converter = none → exec (.conversionEnd reading) s = .next s.between.keep)) ∧
  ∀ (reading : BitVec 10) (s : State) (k : ChannelId) (kind : ConvKind), s.up = true →
    let u := s.between
    u.scan.converter = some ⟨k, kind⟩ →
    let r := s.channel k
    let longer := r.history ++ [reading.toNat]
    let kept : Channel := { r with history := longer.drop (longer.length - 4) }
    let classed (v : Nat) : ChanClass := if v < r.openT then .openCircuit else if r.shortT < v then .short else .ok
    let next (x : Scanner) : Scanner :=
      match u.scan.queue with
      | l :: rest => { x with queue := rest, converter := some ⟨lineChannel l, .select true⟩ }
      | [] => { x with converter := none }
    (∀ a : Fin 16, kind = .scan → k = ampChannel a →
      let new (c : ChanClass) : Prop := 3 ≤ (kept.history.filter fun v => classed v == c).length
      ∃ t, exec (.conversionEnd reading) s = .next t ∧
        t.scan = next { u.scan with
          pos := if h : s.scan.pos.val + 1 < 24 then ⟨s.scan.pos.val + 1, h⟩ else 8
          channels := s.scan.channels.put k { kept with cls := (t.channel k).cls } } ∧
        (∀ c, new c → (t.channel k).cls = c) ∧ ((∀ c, ¬ new c) → (t.channel k).cls = r.cls) ∧
        let faulted (z : ZoneId) (x : Zone) : Zone :=
          if (t.channel k).cls ≠ r.cls ∧ z.val / 4 = a.val then { x with fault := (t.channel k).cls != .ok } else x
        let table : Tab Zone 64 := Tab.tabulate 64 fun z => faulted z (s.zone z)
        Sounded ({ u with scan := t.scan, router := { s.router with zones := table } } : State) t) ∧
    (∀ l : LineId, k = lineChannel l → kind = .select false → exec (.conversionEnd reading) s = .next
      (u.onScan fun x => next { x with channels := x.channels.put k kept }).keep) ∧
    (∀ l : LineId, k = lineChannel l → kind = .select true →
      let handed : State := u.onClock l fun x =>
        { x with inflight := x.inflight.map fun imp => { imp with result := some (classed reading.toNat) } }
      (classed reading.toNat ≠ .short ∨ (u.clock l).inflight = none → exec (.conversionEnd reading) s = .next
        (handed.onScan fun x => next { x with channels := x.channels.put k kept }).keep) ∧
      (∀ imp, classed reading.toNat = .short → (u.clock l).inflight = some imp →
        ∃ t, exec (.conversionEnd reading) s = .next t ∧ VerdictActs l { imp with result := some .short } u t ∧
          (t.channel k).history = kept.history ∧
          ((s.clock l).reeval = false → (t.clock l).inflight = none ∧ (t.clock l).outputOff = imp.coded)))

/-! ### Power and starts (chapter 10) -/

/-- ZERO_CROSSING and FREQUENCY_WINDOW_END (R158 to R162, R92, R132, R145): a pulse is counted. A window that has ended
gives the frequency count, which stays at 65535 from there (log entry 45); out of 360..520 with the mains PRESENT it makes
the mains ABSENT. An eighth boundary judges the crossings of its eighth by R158's table, before the window that ends with it
(log entry 68), and battery-low before or after it.
Where the mains leaves PRESENT a running part goes from NORMAL to RESERVE: impulses in flight end, delivered where half
their width had passed with nothing against them; grants and the waiting list go; every BELL and MESSAGE session ends. Where
it becomes PRESENT the part goes from RESERVE to NORMAL, its probes timed again, and from RETAINED to a start. Battery-low
in RESERVE makes it RETAINED: sessions, crosspoint, conversions, telegram and store operation are given up, and the block
is written whole. Where the blocks do not run, under reset (log entry 20) or in STARTING, the power state follows silently.
Without supply or a window there is nothing to count or judge (log entry 11). -/
def Obligations.MainsMonitor : Prop :=
  let toReserve (s t : State) : Prop :=
    t.time = s.time ∧ t.cal = s.cal ∧ t.pins = s.pins ∧ t.pending = s.pending ∧ Pages s t ∧
    t.line.grants = [] ∧ t.line.waiting = [] ∧
    (∀ l, (t.clock l).inflight = none ∧ (t.clock l).fastTimer = none ∧ (t.clock l).reeval = false ∧
      (t.clock l).state ≠ .advancing ∧ (t.clock l).state ≠ .advanceWait) ∧
    (∀ l imp, (s.clock l).inflight = some imp → imp.coded = false → imp.hostSet = false →
      let halfDone : Prop := imp.width ≤ 2 * (s.time.elapsed - imp.start) ∧
        (imp.result = none ∨ imp.result = some .ok)
      (halfDone → (t.clock l).display = (s.clock l).display.map fun d => (d + 1) % (s.clock l).kind.period) ∧
      (¬ halfDone → (t.clock l).display = (s.clock l).display ∧
        (t.clock l).polarity = (s.clock l).polarity ∧ (t.clock l).failCount = (s.clock l).failCount)) ∧
    (s.noneDown → ∀ k x, t.sess k = some x → x.cls ≠ .bell ∧ x.cls ≠ .message)
  (∀ s : State,
    (s.power.supplied = true → exec .zeroCrossing s = .next
      (s.between.onPower fun p => { p with crossings := p.crossings + 1 })) ∧
    (s.power.supplied = false → exec .zeroCrossing s = .next s) ∧
    (s.power.supplied = false ∨ s.power.windowDue = none → exec .frequencyWindowEnd s = .next s.keep) ∧
    ∀ n, s.power.supplied = true → s.power.windowDue = some n →
      let counted : PowerMon := { s.power with windowDue := none, freq := min n 65535 }
      let lost : PowerMon := { counted with mains := .absent, qualEighths := 0, qualCross := 0, windowWhole := false }
      (s.power.mains ≠ .present ∨ (360 ≤ n ∧ n ≤ 520) →
        exec .frequencyWindowEnd s = .next (s.onPower fun _ => counted).keep) ∧
      (s.power.mains = .present → n < 360 ∨ 520 < n →
        (s.power.power ≠ .normal → exec .frequencyWindowEnd s = .next (s.onPower fun _ => lost).keep) ∧
        (s.power.power = .normal → s.up = false → exec .frequencyWindowEnd s = .next
          (s.onPower fun _ => { lost with power := .reserve }).keep) ∧
        (s.power.power = .normal → s.up = true → ∃ t, exec .frequencyWindowEnd s = .next t ∧
          t.power = { lost with power := .reserve, retained := t.power.retained } ∧ toReserve s t))) ∧
  (∀ s : State, s.judgePower true = s.sampleBattery.judgeMains ∧ s.judgePower false = s.judgeMains.sampleBattery) ∧
  (∀ s : State, s.power.supplied = true →
    let p := s.power
    let c := p.crossings
    let judged : PowerMon :=
      if p.mains = .present then (if c = 0 then { p with mains := .absent, qualEighths := 0, qualCross := 0 } else p)
      else if p.mains = .absent then (if c = 0 then p else { p with mains := .qualifying, qualEighths := 1, qualCross := c })
      else if c = 0 then { p with mains := .absent, qualEighths := 0, qualCross := 0 }
      else if p.qualEighths + 1 < 40 then { p with qualEighths := p.qualEighths + 1, qualCross := p.qualCross + c }
      else if 225 ≤ p.qualCross + c ∧ p.qualCross + c ≤ 325 then
        { p with mains := .present, qualEighths := 0, qualCross := 0 }
      else { p with qualEighths := 0, qualCross := 0 }
    let whole : Bool := p.windowWhole && judged.mains == .present
    let counted : PowerMon :=
      if s.time.elapsed % 64 = 0 then
        { judged with windowDue := if whole then some (p.windowCross + c) else none, windowCross := 0
                      windowWhole := judged.mains == .present, crossings := 0 }
      else { judged with windowCross := p.windowCross + c, windowWhole := whole, crossings := 0 }
    let t := s.judgeMains
    let leaves : Prop := p.mains = .present ∧ judged.mains ≠ .present
    let comes : Prop := p.mains ≠ .present ∧ judged.mains = .present
    (¬ leaves → ¬ comes → t = s.onPower fun _ => counted) ∧
    (leaves → (p.power ≠ .normal → t = s.onPower fun _ => counted) ∧
      (p.power = .normal → s.up = false → t = s.onPower fun _ => { counted with power := .reserve }) ∧
      (p.power = .normal → s.up = true →
        t.power = { counted with power := .reserve, retained := t.power.retained } ∧ toReserve s t)) ∧
    (comes → (p.power = .normal → t = s.onPower fun _ => counted) ∧
      (p.power = .reserve → s.up = false → t = s.onPower fun _ => { counted with power := .normal }) ∧
      (p.power = .reserve → s.up = true → t.power = { counted with power := .normal, retained := t.power.retained } ∧
        t.time = s.time ∧ t.cal = s.cal ∧ t.pins = s.pins ∧ t.pending = s.pending ∧ Pages s t ∧
        (s.rh.writerOn = true → Mask.has t.rh.notice Notice.power.bit = true) ∧
        SessionsKept s.router.seq s.router.sessions t.router.seq t.router.sessions ∧
        ∀ l, ((s.clock l).state = .fault → (t.clock l).probeTimer = some (s.time.elapsed + 480)) ∧
          (s.time.quality ≠ .unset → (s.clock l).inflight = none → (s.clock l).kind.impulses = true →
            (s.clock l).state = .inStep ∨ (s.clock l).state = .holding → ∀ d, (s.clock l).display = some d →
            (t.clock l).last = some (s.lineDecision l d))) ∧
      (p.power = .retained → s.live = true → t.power.part = .starting ∧ t.time.elapsed = 0 ∧ t.power.power = .normal ∧
        t.power.cause = if p.retained.validity = p.retained.fields.sum then .warmPower else .cold) ∧
      (p.power = .retained → s.live = false → t = s.onPower fun _ => counted))) ∧
  ∀ s : State,
    let t := s.sampleBattery
    let low : Prop := s.up = true ∧ s.power.power = .reserve ∧ s.pins.batteryLow = true
    (¬ low → t = s) ∧
    (low → t.power = { s.power with power := .retained, storeOp := none, retained := Retained.of t.retFields } ∧
      t.time = { s.time with assembly := none, candidate := none, held := none } ∧ t.cal = s.cal ∧ t.line = s.line ∧
      t.scan = { s.scan with converter := none, queue := [], scanDue := false } ∧ t.pins = s.pins ∧
      t.pending = s.pending ∧ t.rh.writerOn = false ∧ (∀ n, t.sess n = none) ∧ t.router.frame = none ∧
      (∀ z, t.router.latched.at z = none) ∧ ∀ q, (t.player q).pause = false)

/-- EIGHTH_END of a running part (R1): what is due of the instant before is taken (log entry 10) and the host's writes land;
that leaves u. Then, with the mains there and no request posted: the inputs are sampled, an input that shows the level
held counting 0 and one that shows the other counting up (R83, R105, R106); a frame is sent where selections changed
(R79); the store operation goes on, a LOAD with its next 1024 bytes (R167); each generator's phase runs an eighth down,
tone A and tone B by turns (R95); each player is sampled with its PAUSE (R81, log entry 46); a probe that LINE_CONTROL PROBE asked for starts, an
impulse of the line's width or, on a coded line, a frame, where the line is still in FAULT with nothing in flight and time is
set, and is forgotten where not (R144, log entry 26); the scan starts where the converter is idle and the queue empty, or
waits for the requests of this boundary (R151); the crossings count again from 0 (R158); and the sweep is counted (R172). That the power work, the inputs, the store, the
scan and the sweep come in this order is log entry 47. Where the boundary ends a second, the sender says whether the seconds
increase before them (secondFirst), so that a return to NORMAL meets eighth 0 (R145), or after them (log entry 12); that a LOAD takes its
1024 bytes in one go, from memory as it stands at the boundary, is log entry 35. -/
def Obligations.EighthBoundaryWork : Prop :=
  (∀ (inp : BoundaryInput) (s : State), s.power.supplied = true → inp.secondFirst = true →
    let v := ((s.dueAll.hostWrites inp.host).judgeFrame.meetBoundary inp.pins).advanceTime
    let w := v.secondBoundary
    exec (.eighthEnd inp) s = .next ((w.boundaryWork inp).askSweep inp.asks).keep ∧
    (v.time.boundaryDue = false → w = v) ∧
    (v.power.supplied = true → v.time.boundaryDue = true → w.time.stdSec = v.time.stdSec + 1 ∧ w.time.eighth = 0 ∧
      w.time.boundaryDue = false ∧ w.time.elapsed = v.time.elapsed ∧ w.power.mains = v.power.mains ∧
      w.power.crossings = v.power.crossings)) ∧
  ∀ (inp : BoundaryInput) (s : State),
    let u := s.dueAll.hostWrites inp.host
    (inp.secondFirst = true → u.time.lastEighth = false) →
    s.power.supplied = true → u.up = true → inp.asks = [] → u.power.mains = .present → 0 < u.power.crossings →
    u.power.power = .normal → u.time.stdSec < 3155759999 → u.rh.queue = [] →
    (∀ j, (u.rh.cells.at j).inFlight = true ∨ (u.mem.readWord (cellBase j)).toNat % 16 ≠ 1) →
    let count (held shown : Bool) (n : Nat) : Nat := if shown = held then 0 else n + 1
    let whole : Bool := u.power.windowWhole
    let sum := u.power.windowCross + u.power.crossings
    let probe (r : Line) : Impulse :=
      if r.kind = .coded then ⟨.probe, true, u.frameBytes, u.time.elapsed + 1, 1, .a, false, none, false⟩
      else ⟨.probe, false, [], u.time.elapsed + 1, r.w, r.polarity, false, none, false⟩
    ∃ t, exec (.eighthEnd inp) s = .next t ∧ t.pins = inp.pins ∧ t.pending = u.pending ∧ t.mem = u.mem ∧
      t.cal = u.cal ∧ t.bell = u.bell ∧ t.line = { u.line with lines := t.line.lines } ∧
      (∀ l : LineId, let r := u.clock l
        let starts : Prop := r.state = .fault ∧ r.inflight = none ∧ u.time.quality ≠ .unset
        (r.probeAsked = false → t.clock l = r) ∧
        (r.probeAsked = true → ¬ starts → t.clock l = { r with probeAsked := false }) ∧
        (r.probeAsked = true → starts → t.clock l = { r with
          inflight := some (probe r), probeTimer := none, probeAsked := false
          outputOff := if r.kind = .coded then false else r.outputOff })) ∧
      t.time.elapsed = u.time.elapsed + 1 ∧ t.time.atBoundary = true ∧ t.time.stdSec = u.time.stdSec ∧
      t.drill = { u.drill with buildings := Tab.tabulate 6 fun b =>
        { u.building b with
          contactCount := count (u.building b).contact (Mask.has inp.pins.contacts b.val) (u.building b).contactCount
          musterCount := count (u.building b).muster (Mask.has inp.pins.musters b.val) (u.building b).musterCount } } ∧
      t.router = { u.router with
        frame := u.judgeFrame.router.frame, seen := u.judgeFrame.router.seen, changed := false
        players := u.router.players.map fun q => { q with pauseAtLast := q.pause }
        consoles := Tab.tabulate 2 fun c => { u.console c with
          pttCount := count (u.console c).ptt (Mask.has inp.pins.ptt c.val) (u.console c).pttCount
          emerCount := count (u.console c).emergency (Mask.has inp.pins.emergency c.val) (u.console c).emerCount } } ∧
      t.power = { u.power with
        crossings := 0, retained := t.power.retained
        windowDue := if (u.time.elapsed + 1) % 64 = 0 then (if whole then some sum else none) else u.power.windowDue
        windowCross := if (u.time.elapsed + 1) % 64 = 0 then 0 else sum
        windowWhole := if (u.time.elapsed + 1) % 64 = 0 then true else whole
        storeOp := match u.power.storeOp with
          | none => none
          | some (.load i tag k o n copied _) => some (.load i tag k o n
              (copied ++ u.mem.readBytes (0x2000 + o + copied.length) (min 1024 (n - copied.length))) true)
          | some (.save i tag plan k n _) => some (.save i tag plan k n true)
          | some (.saveNothing i tag _) => some (.saveNothing i tag true)
          | some (.logCopy i tag o log _) => some (.logCopy i tag o log true) } ∧
      t.scan = (if inp.selectFirst = true then { u.scan with scanDue := true }
        else if u.scan.converter = none ∧ u.scan.queue = [] then { u.scan with converter := some ⟨u.scan.pos, .scan⟩ }
        else u.scan) ∧
      (∀ g : GenId,
        ((u.gen g).users = [] → t.gen g = u.gen g) ∧
        ((u.gen g).users ≠ [] → (u.gen g).begun = true → (u.gen g).left ≤ 1 → t.gen g = { u.gen g with left := 0 }) ∧
        ((u.gen g).users ≠ [] → (u.gen g).begun = true → 2 ≤ (u.gen g).left →
          t.gen g = { u.gen g with
            left := (u.gen g).left - 1
            divider := if (u.gen g).onPhase = true then ((u.gen g).copy[(u.gen g).step]?).map fun x => match x.toneB with
              | some b => if (x.on - ((u.gen g).left - 1)) % 2 = 0 then x.toneA else b
              | none => x.toneA else none }) ∧
        ((u.gen g).users ≠ [] → (u.gen g).begun = false → ∀ x, (u.gen g).copy[0]? = some x → x.on ≠ 0 → t.gen g =
          { u.gen g with begun := true, step := 0, onPhase := true, left := x.on, divider := some x.toneA })) ∧
      t.rh = { u.rh with sweepCount := u.rh.sweepCount + 1, sweeping := false, again := false }

/-- SUPPLY_APPLIED, RESET_RELEASE, RESET_ASSERT and SUPPLY_FAILURE (R20, R33, R52, R126, R158, R163 to R166, R186): a start
clears common memory but for the header, and with it cells and notices, the sessions and the elapsed count; a valid
retained block gives back time, overrides, watermarks and the log, LOCKED becoming HOLDOVER; an invalid one makes it COLD.
R148: to a line whose retained kind is its own a valid block gives back display, polarity and stopped flag, and its state goes by
them; the rest of its record is clear. R166: every section's outcome from the EEPROM, NO_STORE, NO_IMAGE, ABSENT, ENTRY_BAD, CHECKSUM,
REFUSED, INSTALLED or CLAMPED; a section that passes gives its tables and its image, unchanged, and any other kind has its
defaults and no image. The inputs are sampled. Supply applied leaves the mains ABSENT; a reset keeps the monitor. RESET_ASSERT turns the outputs off, stops the start or store operation in progress and has the host bus
read 0 (log entry 20); the header's page bytes are 0 in STARTING (log entry 33). A failing supply leaves the block invalid,
its validity word torn (log entry 3). A release without a reset asserted, and a reset without supply, do nothing (log
entry 11). -/
def Obligations.Starts : Prop :=
  ∀ (pins : Pins) (s : State),
    let old := s.power.retained
    let valid : Prop := old.validity = old.fields.sum
    let started (cause : StartCause) (t : State) : Prop :=
      t.power.part = .starting ∧ t.power.supplied = true ∧ t.power.resetAsserted = false ∧ t.power.storeOp = none ∧
      t.time.elapsed = 0 ∧ t.pins = pins ∧ t.pending = s.pending ∧ t.power.eeprom = s.power.eeprom ∧
      t.rh = ReqHandler.start s.rh.revision ∧ (∀ n, t.sess n = none) ∧
      (∀ a, 4 ≤ a → t.mem.read a = 0) ∧ t.mem.read 0 = 0 ∧ t.mem.read 1 = BitVec.ofNat 8 t.power.cause.num ∧
      (∀ b : BuildingId, (t.building b).state = .quiet ∧ (t.building b).contact = Mask.has pins.contacts b.val ∧
        (t.building b).muster = Mask.has pins.musters b.val) ∧
      (valid → t.power.cause = cause ∧ t.time.stdSec = old.fields.stdSec ∧ t.time.eighth = old.fields.eighth ∧
        t.time.quality = (if old.fields.quality = .locked then .holdover else old.fields.quality) ∧
        t.time.dstInForce = t.time.dst.inForceAt old.fields.stdSec ∧
        t.power.dstChanged = (t.time.dstInForce != old.fields.dstInForce) ∧
        t.cal.overrides = old.fields.overrides ∧ t.drill.log = old.fields.log ∧
        t.drill.serial = old.fields.serial ∧
        ∀ g : SchedId, (t.bell.groups.at g).date = old.fields.dates.at g ∧
          (t.bell.groups.at g).watermark = old.fields.watermarks.at g) ∧
      (¬ valid → t.power.cause = .cold ∧ t.time.stdSec = 0 ∧ t.time.quality = .unset ∧ t.cal.overrides = [] ∧
        t.drill.log = [] ∧ t.drill.serial = 0 ∧ ∀ g : SchedId, (t.bell.groups.at g).watermark = -1) ∧
      (∀ l : LineId,
        let x := t.clock l
        let r := old.fields.lines.at l
        let keep : Prop := valid ∧ r.kind = x.kind
        (keep → x.display = (if x.kind.impulses then r.display else none) ∧ x.polarity = r.polarity ∧
          x.stopped = (r.stopped && x.kind != .disabled)) ∧
        (¬ keep → x.display = none ∧ x.polarity = .a ∧ x.stopped = false) ∧
        x = { kind := x.kind, q := x.q, w := x.w, display := x.display, polarity := x.polarity, stopped := x.stopped
              state := if x.kind = .disabled then .disabled else if x.stopped = true then .stopped
                else if x.kind.impulses = true ∧ x.display = none then .unknown else .inStep
              failCount := 0, inflight := none, reeval := false, fastTimer := none, probeTimer := none
              probeAsked := false, outputOff := false, last := none }) ∧
      t.line.grants = [] ∧ t.line.waiting = [] ∧
      (∀ (b : BuildingId) (z : ZoneId), Mask.has (t.router.maps.at b) z.val = decide ((t.zone z).building = b)) ∧
      ∀ k : SectKind,
        let m := s.power.eeprom
        let answers (i : Nat) : Bool := pins.storeAnswers.getLsbD i
        let out := t.power.outcomes.at k.index
        let image := t.power.images.at k.index
        t.power.changed.at k.index = false ∧
        (out ≠ .installed → out ≠ .clamped → image = none ∧ t.holdsDefaults k) ∧
        (answers 0 = false → out = .noStore) ∧
        (answers 0 = true → m.readWord 0 ≠ 0x6A3C → out = .noImage) ∧
        (answers 0 = true → m.readWord 0 = 0x6A3C →
          let dir : List Nat := (List.range (min (m.readWord 2).toNat 7)).map fun i => 4 + 8 * i
          let entry := dir.find? fun o => (m.read o).toNat == k.num
          (entry = none → out = .absent) ∧
          ∀ o, entry = some o →
            let offset := (m.readWord (o + 2)).toNat
            let length := (m.readWord (o + 4)).toNat
            let bytes := m.readBytes offset length
            let body := bytes.drop 6
            let inside : Prop := 60 ≤ offset ∧ offset + length ≤ 32768
            let agrees : Prop := byteSum bytes = m.readWord (o + 6) ∧ wordAt bytes 0 = k.num ∧
              wordAt bytes 2 + 6 = bytes.length ∧ BitVec.ofNat 16 (wordAt bytes 4) = byteSum body
            (¬ inside → out = .entryBad) ∧
            (inside → answers k.num = false → out = .noStore) ∧
            (inside → answers k.num = true → ¬ agrees → out = .checksum) ∧
            (∀ c p, inside → answers k.num = true → agrees →
              judgeChecks none (sectionChecks k body) = .refused c p → out = .refused c p) ∧
            ∀ first, inside → answers k.num = true → agrees →
              judgeChecks none (sectionChecks k body) = .passed first →
              out = (match first with | none => .installed | some _ => .clamped) ∧ image = some bytes ∧
              t.holdsSection k body)
    (∃ t, exec (.supplyApplied pins) s = .next t ∧ started .warmPower t ∧ t.power.mains = .absent ∧
      t.power.power = .reserve ∧ t.power.freq = 0 ∧ t.power.qualEighths = 0 ∧ t.power.qualCross = 0) ∧
    (s.power.supplied = true → s.power.resetAsserted = true → ∃ t, exec (.resetRelease pins) s = .next t ∧
      started .pin t ∧ t.power.mains = s.power.mains ∧ t.power.freq = s.power.freq ∧
      t.power.power = if s.power.mains = .present then .normal else .reserve) ∧
    (s.power.supplied = false ∨ s.power.resetAsserted = false → exec (.resetRelease pins) s = .next s.between.keep) ∧
    (s.power.supplied = true → ∃ t, exec .resetAssert s = .next t ∧
      let u := s.between
      t = { u with power := t.power, rh := t.rh, router := t.router, tone := t.tone, line := t.line } ∧
      t.power = { s.power with resetAsserted := true, storeOp := none, retained := t.power.retained } ∧
      t.rh = { s.rh with writerOn := false } ∧
      t.router = { s.router with latched := t.router.latched, frame := none, players := t.router.players } ∧
      (∀ z, t.router.latched.at z = none) ∧
      (∀ p, t.player p = { s.player p with cueBus := 0, pause := false }) ∧
      t.tone = { s.tone with gens := t.tone.gens } ∧ (∀ g, t.gen g = { s.gen g with divider := none }) ∧
      t.line = { s.line with lines := t.line.lines } ∧ (∀ l, t.clock l = { s.clock l with inflight := none }) ∧
      ∀ address, t.hostRead address = 0) ∧
    (s.power.supplied = false → exec .resetAssert s = .next s.between.keep) ∧
    ∀ torn, ∃ t, exec (.supplyFailure torn) s = .next t ∧
      t = { s with power := { s.power with
        supplied := false, storeOp := none
        retained := { s.power.retained with validity := t.power.retained.validity } } } ∧
      t.power.retained.validity ≠ t.power.retained.fields.sum ∧
      ∃ u, exec (.supplyApplied pins) t = .next u ∧ u.power.cause = .cold

/-- RUNNING_ENTRY (R126, R163, R165, R177): a part in STARTING becomes RUNNING; the retained block is written whole, the
Report Writer takes records from then on and sets the START notice; a building whose contact is closed goes to ALARM; and
with every contact open the log records still open close POWER_LOST at this instant, the others standing, oldest first (log
entry 66). The elapsed count and the power monitor stand. The blocks act in this order, the model's choice (log entry 21). R33:
with set time the Calendar Unit takes today's date, and its overrides of dates before it go; in UNSET time it hands an empty
day-quiet set. R79: the first frame is sent and latched, of the selections as they stand. R126: the buildings are announced QUIET,
and those with a closed contact taken through a closure, ascending. R52: each group, with set time, is WORKING on its retained date
where that is today, with today's selection, and the watermark rule runs, and else takes the date-change rule; in UNSET time it
stays as it is. R148: every impulse line in IN_STEP is decided, ascending, under R135. R94: the consoles' keys are sampled once.
Otherwise nothing happens (log entry 11). -/
def Obligations.RunningEntry : Prop :=
  ∀ s : State,
    (s.starting = false → exec .runningEntry s = .next s.keep) ∧
    (s.starting = true → ∃ t, exec .runningEntry s = .next t ∧
      t = (s.examineHeld.becomeRunning.calRunning.sendFrame.drillRunning.bellRunning.lineRunning.firstKeySample).whole.keep ∧
      (∀ c, (t.console c).pttCount = (if Mask.has s.pins.ptt c.val = true then 1 else 0) ∧
        (t.console c).emerCount = (if Mask.has s.pins.emergency c.val = true then 1 else 0) ∧
        (t.console c).ptt = (s.console c).ptt ∧ (t.console c).emergency = (s.console c).emergency) ∧
      t.power = { s.power with part := .running, retained := t.power.retained } ∧
      t.power.retained = Retained.of t.retFields ∧ t.time.elapsed = s.time.elapsed ∧ t.pins = s.pins ∧
      t.pending = s.pending ∧ t.rh.writerOn = true ∧ Mask.has t.rh.notice Notice.start.bit = true ∧
      (∀ b, (s.building b).contact = true → (t.building b).state = .alarm) ∧
      (s.time.held = none → (∀ b, (s.building b).contact = false ∧ (s.building b).state = .quiet) →
        t.drill.serial = s.drill.serial ∧ t.drill.log = s.drill.log.map fun q =>
          if q.outcome = .stillOpen then { q with endTime := some ⟨s.time.stdSec, s.time.eighth⟩, outcome := .powerLost }
          else q)) ∧
    (s.time.quality ≠ .unset → s.calRunning = s.calDateChange s.civil.day ∧ s.calRunning.cal = { s.cal with
      today := some s.civil.day, todayType := some (s.calRunning.cal.typeOf s.civil.day)
      overrides := s.cal.overrides.filter fun o => decide (s.civil.day ≤ o.day) }) ∧
    (s.time.quality = .unset → s.calRunning.cal = s.cal ∧ (s.cal.todayType = none →
      ∀ z, (s.calRunning.zone z).dayQuiet = false)) ∧
    (∃ r, s.sendFrame = (s.onRouter fun _ => r) ∧
      r = { s.router with latched := r.latched, seen := r.latched, frame := none, changed := false } ∧
      ∀ z, r.latched.at z = s.selection z) ∧
    (let lost := s.drill.log.filter fun q => q.outcome == .stillOpen && !q.isAlarm
      let closed := (lost.map fun q => q.resultReport .powerLost).foldl (fun u q => State.report q u) (s.onDrill fun d =>
        { d with log := d.log.map fun q =>
          if q.outcome = .stillOpen then { q with endTime := some ⟨s.time.stdSec, s.time.eighth⟩, outcome := .powerLost }
          else q })
      let told := (List.finRange 6).foldl (fun u b => ((Mask.members (u.router.maps.at b)).foldl (fun v z => State.rejudge z v)
        (u.onRouter fun r => { r with view := r.view.put b .quiet })).onBell fun r =>
          { r with viewQuiet := r.viewQuiet.put b true }) closed
      s.drillRunning = ((List.finRange 6).filter fun b => (told.building b).contact).foldl (fun u b => State.closure b u) told) ∧
    (∃ f : SchedId → State → State, s.bellRunning = (List.finRange 8).foldl (fun u g => f g u) s ∧
      ∀ (g : SchedId) (u : State), let c := u.civil
        (u.time.quality = .unset → f g u = u) ∧
        (u.time.quality ≠ .unset → (u.groupWork g).date ≠ some c.day → f g u = u.changeDate g c.day c.sec) ∧
        (u.time.quality ≠ .unset → (u.groupWork g).date = some c.day → f g u =
          (u.onGroup g fun r => { r with
            working := true, program := (u.cal.groups.at g).progMap.at (u.cal.typeOf c.day) }).runWatermark g c.sec)) ∧
    ∃ f : LineId → State → State, s.lineRunning = (List.finRange 8).foldl (fun u l => f l u) s ∧
      ∀ (l : LineId) (u : State), let r := u.clock l
        let reached : Prop := u.up = true ∧ u.power.power = .normal ∧ u.time.quality ≠ .unset ∧
          r.kind.impulses = true ∧ r.state = .inStep
        (¬ reached → f l u = u) ∧ (reached → r.inflight = none → f l u = u.decideLine l) ∧
        (reached → r.inflight ≠ none → f l u = u.onClock l fun x => { x with reeval := true })

/-! ### Common memory and the host bus (chapter 11) -/

/-- NOTICE_WRITE, NOTICE_ENABLE_WRITE, REGISTER_WRITE_OTHER, SWEEP_WRITE and PAGE_AGE_CLOSE (R170 to R174, R179, R184, R185,
R187): writing NOTICE clears the bits written as 1; NOTICE_ENABLE takes six bits; the interrupt output is their common
bit; another register takes nothing. A sweep without posted cells counts, and one more for each sweep asked for again; a posted cell of no kind
is answered UNKNOWN_KIND; a posted RESTART starts the part. Any number of asks during one sweep give one more sweep; each
of the list is the asks of one sweep (log entry 14). In STARTING the host's writes land and the ask is dropped; where the bus
is not served nothing lands and reads give 0. A page 16 eighths old is closed, with the PAGE notice, and one not yet so old
stands (log entry 11). R172, R173: SWEEP_WRITE and EIGHTH_END end in a sweep, and one that meets one posted cell of a known
kind other than RESTART takes it as the request command whose tag and parameters the cell holds does, then counts, and drains the
holding queue where records wait. -/
def Obligations.HostRegistersAndSweeps : Prop :=
  ∀ s : State,
    let served : Prop := s.power.supplied = true ∧ s.power.resetAsserted = false ∧ s.power.power ≠ .retained
    let word (j : CellId) : Word := s.mem.readWord (cellBase j)
    let waits (j : CellId) : Prop := (s.rh.cells.at j).inFlight = false ∧ (word j).toNat % 16 = 1
    (∀ value, served → ∃ t, exec (.noticeWrite value) s = .next t ∧
      t = (s.onRh fun r => { r with notice := t.rh.notice }) ∧
      ∀ k, k < 6 → Mask.has t.rh.notice k = (Mask.has s.rh.notice k && !Mask.has value k)) ∧
    (∀ value, served → ∃ t, exec (.noticeEnableWrite value) s = .next t ∧
      t = (s.onRh fun r => { r with noticeEnable := t.rh.noticeEnable }) ∧
      ∀ k, k < 6 → Mask.has t.rh.noticeEnable k = Mask.has value k) ∧
    (∀ value, ¬ served → exec (.noticeWrite value) s = .next s ∧ exec (.noticeEnableWrite value) s = .next s) ∧
    (∀ address value, exec (.registerWriteOther address value) s = .next s) ∧
    (s.interrupt = true ↔ served ∧ ∃ k, k < 6 ∧ Mask.has s.rh.notice k = true ∧ Mask.has s.rh.noticeEnable k = true) ∧
    (¬ served → ∀ address, s.hostRead address = 0) ∧
    (served → s.hostRead 0x2000 = 0x7316 ∧ s.hostRead 0x2001 = s.rh.notice.zeroExtend 16 ∧
      s.hostRead 0x2002 = s.rh.noticeEnable.zeroExtend 16 ∧ s.hostRead 0x2003 = s.rh.sweepCount ∧
      (∀ address : BitVec 14, address.toNat < 0x2000 → s.hostRead address = s.mem.readWord (2 * address.toNat)) ∧
      ∀ address : BitVec 14, 0x2003 < address.toNat → s.hostRead address = 0) ∧
    (∀ value host asks, ¬ served → exec (.sweepWrite value host asks) s = .next s.between.keep) ∧
    (∀ value host asks, served → s.power.part = .starting → exec (.sweepWrite value host asks) s = .next
      (s.between.onMem fun m => (host ++ asks.flatMap fun a => a.first ++ a.more.flatten).foldl
        (fun m w => m.write (2 * w.word.toNat) (wordBytes w.value)) m).keep) ∧
    (∀ value (asks : List SweepAsks), s.up = true → (∀ j, ¬ waits j) → s.rh.queue = [] →
      (∀ a ∈ asks, a.first = [] ∧ ∀ ws ∈ a.more, ws = []) →
      exec (.sweepWrite value [] asks) s = .next (s.between.onRh fun r =>
        { r with sweepCount := r.sweepCount + BitVec.ofNat 16 (asks.length + 1), sweeping := false, again := false }).keep) ∧
    (∀ value i, s.up = true → waits i → (∀ j, j ≠ i → ¬ waits j) → s.rh.queue = [] →
      ((word i).toNat / 256 = 0 ∨ 16 < (word i).toNat / 256 → ∃ t, exec (.sweepWrite value [] []) s = .next t ∧
        t.mem.readWord (cellBase i) = BitVec.ofNat 16 (4 + 16 * 2 + 256 * ((word i).toNat / 256)) ∧
        t.rh.cells = s.rh.cells.put i ⟨false, (s.rh.cells.at i).count + 1⟩ ∧
        Mask.has t.rh.notice Notice.cell.bit = true ∧ t.rh.sweepCount = s.rh.sweepCount + 1 ∧
        HostSide s.between t) ∧
      ((word i).toNat / 256 = 16 → ∃ t, exec (.sweepWrite value [] []) s = .next t ∧ t.power.part = .starting ∧
        t.time.elapsed = 0 ∧ t.rh = ReqHandler.start s.rh.revision ∧ t.mem.readWord (cellBase i) = 0 ∧
        t.power.cause = if s.power.retained.validity = s.power.retained.fields.sum then .request else .cold)) ∧
    (∀ value host asks, served → s.power.part = .running → exec (.sweepWrite value host asks) s = .next
      ((host.foldl (fun u w => State.onMem (fun m => m.write (2 * w.word.toNat) (wordBytes w.value)) u)
        s.between).askSweep asks).keep) ∧
    (∀ inp, s.power.supplied = true →
      let v := ((s.dueAll.hostWrites inp.host).judgeFrame.meetBoundary inp.pins).advanceTime
      exec (.eighthEnd inp) s = .next
        (((if inp.secondFirst = true then v.secondBoundary else v).boundaryWork inp).askSweep inp.asks).keep) ∧
    (∀ i, s.up = true → waits i → (∀ j, j ≠ i → ¬ waits j) → s.rh.fits → 1 ≤ (word i).toNat / 256 →
      (word i).toNat / 256 ≤ 15 →
      let w := s.onRh fun r => { r with sweeping := true, again := false }
      ∃ v : State, s.askSweep [] = (let u := v.onRh fun r => { r with sweepCount := r.sweepCount + 1, sweeping := false }
          if u.rh.queue = [] then u else u.drainQueue) ∧
        v.rh.sweepCount = s.rh.sweepCount ∧ v.up = true ∧
        let holds (k : Nat) (tag : Word) (params : List Byte) : Prop := Mem.wf s.mem ∧ word i = BitVec.ofNat 16 (1 + 256 * k) ∧
          s.mem.readWord (cellBase i + 2) = tag ∧
          s.mem.readBytes (cellBase i + 8) 40 = (params ++ List.replicate 40 0).take 40
        let takes (c : Instr) : Prop := exec c w = .next v.keep
        (∀ tag y mo d h m sec force, holds 1 tag (timeSetParams y mo d h m sec force) →
          takes (.timeSet i tag y mo d h m sec force)) ∧
        (∀ tag y mo d type, holds 2 tag (dayOverrideParams 0 type y mo d) → takes (.dayOverrideSet i tag y mo d type)) ∧
        (∀ tag y mo d, holds 2 tag (dayOverrideParams 1 0 y mo d) → takes (.dayOverrideClear i tag y mo d)) ∧
        (∀ tag target action minutes, holds 3 tag (admissionParams target action minutes) →
          takes (.admissionSet i tag target action minutes)) ∧
        (∀ tag target, holds 3 tag (admissionParams target 4 0) → takes (.admissionRelease i tag target)) ∧
        (∀ tag cls source which message repeats duration deferLimit target,
          holds 4 tag (announceParams cls source which message repeats duration deferLimit target) →
          takes (.announce i tag cls source which message repeats duration deferLimit target)) ∧
        (∀ tag number, holds 5 tag (cancelParams 0 number 0) → takes (.cancelByNumber i tag number)) ∧
        (∀ tag wanted, holds 5 tag (cancelParams 1 0 wanted) → takes (.cancelByTag i tag wanted)) ∧
        (∀ tag console group ceiling, holds 6 tag [console, group, ceiling] → takes (.consoleSet i tag console group ceiling)) ∧
        (∀ tag mask profile, holds 7 tag [mask, profile] → takes (.drillStart i tag mask profile)) ∧
        (∀ tag mask, holds 8 tag [mask] → takes (.drillAbort i tag mask)) ∧
        (∀ tag mask, holds 9 tag [mask] → takes (.allClear i tag mask)) ∧
        (∀ tag mask, holds 10 tag [mask] → takes (.hush i tag mask)) ∧
        (∀ tag offset, holds 11 tag (wordBytes offset) → takes (.logCopy i tag offset)) ∧
        (∀ tag line polarity position, holds 12 tag (setDisplayParams line polarity position) →
          takes (.lineSetDisplay i tag line polarity position)) ∧
        (∀ tag line, (holds 13 tag [line, 0] → takes (.lineControlStop i tag line)) ∧
          (holds 13 tag [line, 1] → takes (.lineControlRun i tag line)) ∧
          (holds 13 tag [line, 2] → takes (.lineControlProbe i tag line))) ∧
        (∀ tag kind offset length, holds 14 tag (loadParams kind offset length) → takes (.load i tag kind offset length)) ∧
        ∀ tag, holds 15 tag [] → takes (.save i tag)) ∧
    (∀ c first, s.up = true → s.rh.current = some c → c.first = some first → first + 16 ≤ s.time.elapsed →
      s.rh.queue = [] → ∃ t, exec .pageAgeClose s = .next t ∧ HostSide s t ∧
        t.rh = { s.rh with current := none, notice := t.rh.notice } ∧
        (∀ k, Mask.has t.rh.notice k = (Mask.has s.rh.notice k || k == Notice.page.bit)) ∧
        t.mem.readWord (pageBase c.page) = 2 ∧ t.mem.readWord (pageBase c.page + 2) = c.seq ∧
        ∀ a, (a < pageBase c.page ∨ pageBase c.page + 16 ≤ a) → t.mem.read a = s.mem.read a) ∧
    (s.up = false ∨ s.rh.current = none ∨ (∀ c first, s.rh.current = some c → c.first = some first →
        s.time.elapsed < first + 16) → exec .pageAgeClose s = .next s.keep)

/-- R182, R183, 12.2, 12.5: at a standard second boundary of a running part every mirror record is rewritten from the state as
it then stands, between two equal update counts that are one more than before (a building's, which its transitions
rewrite too, the count held), and so is the header. That this comes last, after what the boundary does to bells, lines and the DST
move, is the model's choice (log entry 53). A field that has no value, and no code for that, is left open (log entry 7), and
the revision is log entry 2. -/
def Obligations.MirrorAndHeaderShowTheState : Prop :=
  ∀ s : State, s.up = true → s.time.boundaryDue = true → ∃ t, exec .standardSecondBoundary s = .next t ∧
    let byte (n : Nat) : List Byte := leBytes 1 n
    let bit (b : Bool) : Nat := if b then 1 else 0
    let at_ (a : Nat) (bs : List Byte) : Prop := t.mem.readBytes a bs.length = bs
    let counted (k a size : Nat) : Prop := ∃ h : k < 131,
      let n := t.rh.mirrorCounts.at ⟨k, h⟩
      t.mem.readWord a = n ∧ t.mem.readWord (a + size - 2) = n ∧ ((k < 88 ∨ 94 ≤ k) → n = s.rh.mirrorCounts.at ⟨k, h⟩ + 1)
    (∀ z : ZoneId, let r := t.zone z
      let a := 0x700 + 16 * z.val
      counted z.val a 16 ∧ at_ (a + 2) (byte r.building.val ++ byte r.base.num ++
        byte (bit r.dayQuiet + 2 * bit r.schedQuiet + 4 * bit r.fault) ++
        byte (match r.override with | some o => o.mode.num | none => 255) ++ byte r.effective.num ++
        byte (orNone r.occupant) ++ byte (orNone r.held) ++
        leBytes 5 (match r.override with | some o => o.expiry.getD 0 | none => 0))) ∧
    (∀ n : SessId, let a := 0xB00 + 32 * n.val
      counted (64 + n.val) a 32 ∧ (t.sess n = none → at_ (a + 2) [255]) ∧
      ∀ x, t.sess n = some x → at_ (a + 2) (byte x.state.num ++ byte x.cls.num ++
        byte (match x.origin with | .scheduler _ _ => 0 | .request _ _ => 1 | .console _ => 2 | .building _ _ => 3) ++
        byte (match x.source with
          | .tone _ => 16 * (match t.genOf n with | some g => g.val | none => 15)
          | .player p _ _ => 1 + 16 * p.val
          | .console c => 2 + 16 * c.val) ++
        maskBytes x.connected ++ maskBytes x.waiting ++ maskBytes x.held)) ∧
    (∀ l : LineId, let r := t.clock l
      let a := 0xD00 + 32 * l.val
      let place := t.line.waiting.idxOf l
      counted (80 + l.val) a 32 ∧
      at_ (a + 2) (byte r.kind.num ++ byte r.state.num ++ leBytes 2 (r.display.getD 0xFFFF)) ∧
      (r.kind.impulses = true → at_ (a + 6) (byte r.polarity.num)) ∧
      (r.kind.impulses = true → t.time.quality ≠ .unset → at_ (a + 7) (leBytes 2 (t.lineTarget l)) ∧
        ∀ d, r.display = some d → at_ (a + 9) (leBytes 2 (t.lineLag l d))) ∧
      at_ (a + 11) (byte r.failCount ++ byte (bit r.stopped + 2 * bit (t.line.grants.contains l)) ++
        byte (if l ∈ t.line.waiting then place else 255) ++
        byte (match r.last with | some d => d.verdict.num | none => 255)) ∧
      ∀ d, r.last = some d → at_ (a + 15) (leBytes 3 d.expected)) ∧
    (∀ b : BuildingId, let r := t.building b
      let a := 0xE00 + 16 * b.val
      counted (88 + b.val) a 16 ∧
      at_ (a + 2) (byte r.state.num ++ byte (bit r.contact + 2 * bit r.muster + 4 * bit r.wanted) ++
        byte r.sources.toNat) ∧
      (∀ p, r.profile = some p → at_ (a + 5) (byte p.val)) ∧
      at_ (a + 6) (byte (orNone r.signal) ++ (match r.openRec with | some w => wordBytes w | none => [255, 255]) ++
        byte (match r.timer with | some (.prealert, _) => 1 | some (.limit, _) => 2 | some (.auto, _) => 3 | none => 0)) ∧
      ∀ k e, r.timer = some (k, e) → at_ (a + 10) (leBytes 3 (e - t.time.elapsed))) ∧
    (∀ g : SchedId, let r := t.groupWork g
      let a := 0xE60 + 16 * g.val
      counted (94 + g.val) a 16 ∧ at_ (a + 2) (byte (bit r.working)) ∧
      (∀ d, r.date = some d → at_ (a + 3) (leBytes 2 d)) ∧
      at_ (a + 5) (leSigned 4 r.watermark ++ byte (orNone r.program) ++ byte (orNone t.cal.todayType) ++
        byte (orNone (t.cal.selection g)))) ∧
    (∀ g : GenId, let r := t.gen g
      let a := 0xEE0 + 8 * g.val
      counted (102 + g.val) a 8 ∧ at_ (a + 2) (byte (if r.users = [] then 0 else 1)) ∧
      (∀ c, r.cls = some c → at_ (a + 3) (byte c.num)) ∧ (∀ p, r.pattern = some p → at_ (a + 4) (byte p.val)) ∧
      (r.users ≠ [] → at_ (a + 5) (byte (r.users.length + 32 * r.step)))) ∧
    (∀ k : ChannelId, let r := t.channel k
      let a := 0xF00 + 8 * k.val
      counted (106 + k.val) a 8 ∧
      at_ (a + 2) (byte r.cls.num ++ byte r.history.length ++ leBytes 2 (r.history.getLast?.getD 0xFFFF))) ∧
    counted 130 0xFC0 64 ∧
    (let k := t.time.counters;
      at_ 0xFC2 (leBytes 4 t.time.stdSec ++ byte t.time.eighth ++ byte t.time.quality.num ++ byte (bit t.time.dstInForce) ++
        leBytes 2 t.civil.day ++ leBytes 3 t.civil.sec ++ leSigned 1 t.time.slewRem ++ leBytes 5 t.time.elapsed ++
        ([k.parity, k.framing, k.overrun, k.checksum, k.format, k.range, k.weekday, k.gap, k.valid, k.acted,
          k.disagreement].flatMap (leBytes 2)) ++
        byte t.power.mains.num ++ leBytes 2 t.power.freq ++ byte t.power.power.num ++ byte (bit t.pins.batteryLow))) ∧
    at_ 0 (byte 1 ++ byte t.power.cause.num ++ wordBytes t.rh.revision ++ byte (bit t.power.validAtStart) ++
      byte (match t.rh.current with | some c => c.page.val | none => 255) ++ byte t.rh.nextPage.val ++
      byte t.rh.queue.length ++ leBytes 4 t.rh.dropped) ∧
    ∀ a, 12 ≤ a → a < 256 → t.mem.read a = 0
end

