-- ==== Sys2Proof/Laws/Memory.lean ====
section
/-! SUPPORT. The laws of the two memories: what is read after a write, and that a write keeps the canonical form. -/

namespace Sys2Proof.Machine

/-! ### Reading -/

theorem read_of_unlisted (m : Mem) (a : Nat) (h : ∀ c ∈ m, c.1 ≠ a) : m.read a = 0 := by
  induction m with
  | nil => rfl
  | cons c m ih =>
    simp only [Mem.read]
    rw [if_neg (h c (by simp)), ih fun d hd => h d (by simp [hd])]

theorem read_append_left (m k : Mem) (a : Nat) (h : ∀ c ∈ m, c.1 ≠ a) : Mem.read (m ++ k) a = k.read a := by
  induction m with
  | nil => rfl
  | cons c m ih =>
    simp only [List.cons_append, Mem.read]
    rw [if_neg (h c (by simp)), ih fun d hd => h d (by simp [hd])]

theorem read_append_right (m k : Mem) (a : Nat) (h : ∀ c ∈ k, c.1 ≠ a) : Mem.read (m ++ k) a = m.read a := by
  induction m with
  | nil => exact read_of_unlisted k a h
  | cons c m ih =>
    simp only [List.cons_append, Mem.read]
    split
    · rfl
    · exact ih

theorem read_filter (m : Mem) (p : Nat → Bool) (a : Nat) (h : p a = true) :
    Mem.read (m.filter fun c => p c.1) a = m.read a := by
  induction m with
  | nil => rfl
  | cons c m ih =>
    simp only [List.filter_cons]
    by_cases hc : p c.1 = true
    · simp only [hc, if_true, Mem.read, ih]
    · have : c.1 ≠ a := fun e => hc (e ▸ h)
      simp only [hc, Mem.read, this, if_false, ih, Bool.false_eq_true]

theorem cells_range (bs : List Byte) : ∀ (base : Nat), ∀ c ∈ Mem.cells base bs, base ≤ c.1 ∧ c.1 < base + bs.length := by
  induction bs with
  | nil => intro base c hc; simp [Mem.cells] at hc
  | cons b bs ih =>
    intro base c hc
    simp only [Mem.cells] at hc
    split at hc
    · have := ih (base + 1) c hc; simp only [List.length_cons]; omega
    · rcases List.mem_cons.mp hc with h | h
      · subst h; simp
      · have := ih (base + 1) c h; simp only [List.length_cons]; omega

theorem read_cells (bs : List Byte) : ∀ (base a : Nat), base ≤ a → a < base + bs.length →
    Mem.read (Mem.cells base bs) a = bs.getD (a - base) 0 := by
  induction bs with
  | nil => intro base a h1 h2; simp at h2; omega
  | cons b bs ih =>
    intro base a h1 h2
    simp only [List.length_cons] at h2
    by_cases e : a = base
    · subst e
      have rest : Mem.read (Mem.cells (a + 1) bs) a = 0 :=
        read_of_unlisted _ _ fun c hc => by have := cells_range bs (a + 1) c hc; omega
      simp only [Mem.cells, Nat.sub_self, List.getD_cons_zero]
      split
      · rename_i hb; simpa [hb] using rest
      · simp [Mem.read]
    · have e2 : a - base = (a - (base + 1)) + 1 := by omega
      simp only [Mem.cells]
      rw [e2, List.getD_cons_succ, ← ih (base + 1) a (by omega) (by omega)]
      split
      · rfl
      · simp only [Mem.read]; rw [if_neg (fun h => e h.symm)]

/-- A byte read after a write: the byte written where one was, and elsewhere what was there. -/
theorem read_write (m : Mem) (base : Nat) (bs : List Byte) (a : Nat) :
    (m.write base bs).read a = if base ≤ a ∧ a < base + bs.length then bs.getD (a - base) 0 else m.read a := by
  unfold Mem.write
  by_cases h1 : a < base
  · rw [if_neg (by omega), read_append_right, read_filter m (fun x => decide (x < base)) a (by simpa using h1)]
    intro c hc
    rcases List.mem_append.mp hc with h | h
    · have := cells_range bs base c h; omega
    · simp at h; omega
  · rw [read_append_left _ _ a (by intro c hc; simp at hc; omega)]
    by_cases h2 : a < base + bs.length
    · rw [if_pos ⟨by omega, h2⟩, read_append_right, read_cells bs base a (by omega) h2]
      intro c hc; simp at hc; omega
    · rw [if_neg (by omega), read_append_left _ _ a
        (by intro c hc; have := cells_range bs base c hc; omega),
        read_filter m (fun x => decide (base + bs.length ≤ x)) a (by simpa using h2)]

theorem read_write_out (m : Mem) (base : Nat) (bs : List Byte) (a : Nat) (h : a < base ∨ base + bs.length ≤ a) :
    (m.write base bs).read a = m.read a := by
  rw [read_write, if_neg (by omega)]

theorem readBytes_write_out (m : Mem) (base : Nat) (bs : List Byte) (n : Nat) : ∀ a : Nat,
    a + n ≤ base ∨ base + bs.length ≤ a → (m.write base bs).readBytes a n = m.readBytes a n := by
  induction n with
  | zero => intro a _; rfl
  | succ n ih =>
    intro a h
    simp only [Mem.readBytes]
    rw [read_write_out m base bs a (by omega), ih (a + 1) (by omega)]

theorem readWord_write_out (m : Mem) (base : Nat) (bs : List Byte) (a : Nat)
    (h : a + 2 ≤ base ∨ base + bs.length ≤ a) : (m.write base bs).readWord a = m.readWord a := by
  unfold Mem.readWord
  rw [read_write_out m base bs a (by omega), read_write_out m base bs (a + 1) (by omega)]

theorem readBytes_of_reads (m : Mem) (bs : List Byte) : ∀ (n a : Nat), bs.length = n →
    (∀ i, i < n → m.read (a + i) = bs.getD i 0) → m.readBytes a n = bs := by
  induction bs with
  | nil => intro n a h _; simp at h; subst h; rfl
  | cons b bs ih =>
    intro n a h hr
    obtain ⟨k, rfl⟩ : ∃ k, n = k + 1 := ⟨bs.length, by simpa using h.symm⟩
    simp only [Mem.readBytes]
    have h0 := hr 0 (by omega)
    simp only [Nat.add_zero, List.getD_cons_zero] at h0
    rw [h0, ih k (a + 1) (by simpa using h) fun i hi => by
      have := hr (i + 1) (by omega)
      simpa [Nat.add_assoc, Nat.add_comm 1 i] using this]

/-- The bytes of a write read back. -/
theorem readBytes_write (m : Mem) (base : Nat) (bs : List Byte) :
    (m.write base bs).readBytes base bs.length = bs :=
  readBytes_of_reads _ bs bs.length base rfl fun i hi => by
    rw [read_write, if_pos ⟨by omega, by omega⟩, Nat.add_sub_cancel_left]

/-- A word written reads back. -/
theorem readWord_write (m : Mem) (base : Nat) (w : Word) : (m.write base (wordBytes w)).readWord base = w := by
  unfold Mem.readWord
  have hl : (wordBytes w).length = 2 := rfl
  rw [read_write, read_write, if_pos (by omega), if_pos (by omega)]
  simp only [Nat.add_sub_cancel_left, Nat.sub_self]
  simp only [wordBytes, leBytes, List.getD_cons_zero, List.getD_cons_succ]
  apply BitVec.eq_of_toNat_eq
  simp only [BitVec.toNat_append, BitVec.toNat_ofNat]
  have hw := w.isLt
  rw [Nat.mod_eq_of_lt (show w.toNat / 256 < 2 ^ 8 by omega), ← Nat.shiftLeft_add_eq_or_of_lt (by omega)]
  simp only [Nat.shiftLeft_eq]
  omega

/-! ### The canonical form -/

theorem wf_nil : Mem.wf [] := ⟨List.Pairwise.nil, by simp⟩

theorem wf_filter (m : Mem) (p : Host.Cell → Bool) (h : Mem.wf m) : Mem.wf (m.filter p) :=
  ⟨h.1.filter p, fun c hc => h.2 c (List.mem_filter.mp hc).1⟩

theorem wf_cells (bs : List Byte) : ∀ base : Nat, Mem.wf (Mem.cells base bs) := by
  induction bs with
  | nil => intro base; exact wf_nil
  | cons b bs ih =>
    intro base
    simp only [Mem.cells]
    split
    · exact ih (base + 1)
    · rename_i hb
      refine ⟨List.pairwise_cons.mpr ⟨fun c hc => ?_, (ih (base + 1)).1⟩, fun c hc => ?_⟩
      · have := cells_range bs (base + 1) c hc; show base < c.1; omega
      · rcases List.mem_cons.mp hc with h | h
        · subst h; exact hb
        · exact (ih (base + 1)).2 c h

theorem wf_append (m k : Mem) (hm : Mem.wf m) (hk : Mem.wf k) (h : ∀ a ∈ m, ∀ b ∈ k, a.1 < b.1) :
    Mem.wf (m ++ k) :=
  ⟨List.pairwise_append.mpr ⟨hm.1, hk.1, h⟩, fun c hc => by
    rcases List.mem_append.mp hc with h' | h'
    · exact hm.2 c h'
    · exact hk.2 c h'⟩

/-- A write keeps the canonical form. -/
theorem wf_write (m : Mem) (base : Nat) (bs : List Byte) (h : Mem.wf m) : Mem.wf (m.write base bs) := by
  unfold Mem.write
  refine wf_append _ _ (wf_filter m _ h) (wf_append _ _ (wf_cells bs base) (wf_filter m _ h) ?_) ?_
  · intro a ha b hb
    have := cells_range bs base a ha
    simp at hb; omega
  · intro a ha b hb
    simp at ha
    rcases List.mem_append.mp hb with h' | h'
    · have := cells_range bs base b h'; omega
    · simp at h'; omega

end Sys2Proof.Machine
end

