-- ==== Sys2Proof/Laws/State.lean ====
section
/-! SUPPORT. What each named update of State does to each field, and the laws of tables: true by rfl, for simp. -/

namespace Sys2Proof.Machine

/-! ### One lemma for each update and field -/

variable (s : State)

@[simp] theorem onTime_time (g : TimeBase → TimeBase) : (s.onTime g).time = g s.time := rfl
@[simp] theorem onTime_cal (g : TimeBase → TimeBase) : (s.onTime g).cal = s.cal := rfl
@[simp] theorem onTime_bell (g : TimeBase → TimeBase) : (s.onTime g).bell = s.bell := rfl
@[simp] theorem onTime_router (g : TimeBase → TimeBase) : (s.onTime g).router = s.router := rfl
@[simp] theorem onTime_tone (g : TimeBase → TimeBase) : (s.onTime g).tone = s.tone := rfl
@[simp] theorem onTime_drill (g : TimeBase → TimeBase) : (s.onTime g).drill = s.drill := rfl
@[simp] theorem onTime_line (g : TimeBase → TimeBase) : (s.onTime g).line = s.line := rfl
@[simp] theorem onTime_scan (g : TimeBase → TimeBase) : (s.onTime g).scan = s.scan := rfl
@[simp] theorem onTime_power (g : TimeBase → TimeBase) : (s.onTime g).power = s.power := rfl
@[simp] theorem onTime_rh (g : TimeBase → TimeBase) : (s.onTime g).rh = s.rh := rfl
@[simp] theorem onTime_mem (g : TimeBase → TimeBase) : (s.onTime g).mem = s.mem := rfl
@[simp] theorem onTime_pins (g : TimeBase → TimeBase) : (s.onTime g).pins = s.pins := rfl
@[simp] theorem onTime_work (g : TimeBase → TimeBase) : (s.onTime g).work = s.work := rfl
@[simp] theorem onTime_pending (g : TimeBase → TimeBase) : (s.onTime g).pending = s.pending := rfl

@[simp] theorem onCal_time (g : Calendar → Calendar) : (s.onCal g).time = s.time := rfl
@[simp] theorem onCal_cal (g : Calendar → Calendar) : (s.onCal g).cal = g s.cal := rfl
@[simp] theorem onCal_bell (g : Calendar → Calendar) : (s.onCal g).bell = s.bell := rfl
@[simp] theorem onCal_router (g : Calendar → Calendar) : (s.onCal g).router = s.router := rfl
@[simp] theorem onCal_tone (g : Calendar → Calendar) : (s.onCal g).tone = s.tone := rfl
@[simp] theorem onCal_drill (g : Calendar → Calendar) : (s.onCal g).drill = s.drill := rfl
@[simp] theorem onCal_line (g : Calendar → Calendar) : (s.onCal g).line = s.line := rfl
@[simp] theorem onCal_scan (g : Calendar → Calendar) : (s.onCal g).scan = s.scan := rfl
@[simp] theorem onCal_power (g : Calendar → Calendar) : (s.onCal g).power = s.power := rfl
@[simp] theorem onCal_rh (g : Calendar → Calendar) : (s.onCal g).rh = s.rh := rfl
@[simp] theorem onCal_mem (g : Calendar → Calendar) : (s.onCal g).mem = s.mem := rfl
@[simp] theorem onCal_pins (g : Calendar → Calendar) : (s.onCal g).pins = s.pins := rfl
@[simp] theorem onCal_work (g : Calendar → Calendar) : (s.onCal g).work = s.work := rfl
@[simp] theorem onCal_pending (g : Calendar → Calendar) : (s.onCal g).pending = s.pending := rfl

@[simp] theorem onBell_time (g : Bell → Bell) : (s.onBell g).time = s.time := rfl
@[simp] theorem onBell_cal (g : Bell → Bell) : (s.onBell g).cal = s.cal := rfl
@[simp] theorem onBell_bell (g : Bell → Bell) : (s.onBell g).bell = g s.bell := rfl
@[simp] theorem onBell_router (g : Bell → Bell) : (s.onBell g).router = s.router := rfl
@[simp] theorem onBell_tone (g : Bell → Bell) : (s.onBell g).tone = s.tone := rfl
@[simp] theorem onBell_drill (g : Bell → Bell) : (s.onBell g).drill = s.drill := rfl
@[simp] theorem onBell_line (g : Bell → Bell) : (s.onBell g).line = s.line := rfl
@[simp] theorem onBell_scan (g : Bell → Bell) : (s.onBell g).scan = s.scan := rfl
@[simp] theorem onBell_power (g : Bell → Bell) : (s.onBell g).power = s.power := rfl
@[simp] theorem onBell_rh (g : Bell → Bell) : (s.onBell g).rh = s.rh := rfl
@[simp] theorem onBell_mem (g : Bell → Bell) : (s.onBell g).mem = s.mem := rfl
@[simp] theorem onBell_pins (g : Bell → Bell) : (s.onBell g).pins = s.pins := rfl
@[simp] theorem onBell_work (g : Bell → Bell) : (s.onBell g).work = s.work := rfl
@[simp] theorem onBell_pending (g : Bell → Bell) : (s.onBell g).pending = s.pending := rfl

@[simp] theorem onRouter_time (g : Router → Router) : (s.onRouter g).time = s.time := rfl
@[simp] theorem onRouter_cal (g : Router → Router) : (s.onRouter g).cal = s.cal := rfl
@[simp] theorem onRouter_bell (g : Router → Router) : (s.onRouter g).bell = s.bell := rfl
@[simp] theorem onRouter_router (g : Router → Router) : (s.onRouter g).router = g s.router := rfl
@[simp] theorem onRouter_tone (g : Router → Router) : (s.onRouter g).tone = s.tone := rfl
@[simp] theorem onRouter_drill (g : Router → Router) : (s.onRouter g).drill = s.drill := rfl
@[simp] theorem onRouter_line (g : Router → Router) : (s.onRouter g).line = s.line := rfl
@[simp] theorem onRouter_scan (g : Router → Router) : (s.onRouter g).scan = s.scan := rfl
@[simp] theorem onRouter_power (g : Router → Router) : (s.onRouter g).power = s.power := rfl
@[simp] theorem onRouter_rh (g : Router → Router) : (s.onRouter g).rh = s.rh := rfl
@[simp] theorem onRouter_mem (g : Router → Router) : (s.onRouter g).mem = s.mem := rfl
@[simp] theorem onRouter_pins (g : Router → Router) : (s.onRouter g).pins = s.pins := rfl
@[simp] theorem onRouter_work (g : Router → Router) : (s.onRouter g).work = s.work := rfl
@[simp] theorem onRouter_pending (g : Router → Router) : (s.onRouter g).pending = s.pending := rfl

@[simp] theorem onTone_time (g : ToneBank → ToneBank) : (s.onTone g).time = s.time := rfl
@[simp] theorem onTone_cal (g : ToneBank → ToneBank) : (s.onTone g).cal = s.cal := rfl
@[simp] theorem onTone_bell (g : ToneBank → ToneBank) : (s.onTone g).bell = s.bell := rfl
@[simp] theorem onTone_router (g : ToneBank → ToneBank) : (s.onTone g).router = s.router := rfl
@[simp] theorem onTone_tone (g : ToneBank → ToneBank) : (s.onTone g).tone = g s.tone := rfl
@[simp] theorem onTone_drill (g : ToneBank → ToneBank) : (s.onTone g).drill = s.drill := rfl
@[simp] theorem onTone_line (g : ToneBank → ToneBank) : (s.onTone g).line = s.line := rfl
@[simp] theorem onTone_scan (g : ToneBank → ToneBank) : (s.onTone g).scan = s.scan := rfl
@[simp] theorem onTone_power (g : ToneBank → ToneBank) : (s.onTone g).power = s.power := rfl
@[simp] theorem onTone_rh (g : ToneBank → ToneBank) : (s.onTone g).rh = s.rh := rfl
@[simp] theorem onTone_mem (g : ToneBank → ToneBank) : (s.onTone g).mem = s.mem := rfl
@[simp] theorem onTone_pins (g : ToneBank → ToneBank) : (s.onTone g).pins = s.pins := rfl
@[simp] theorem onTone_work (g : ToneBank → ToneBank) : (s.onTone g).work = s.work := rfl
@[simp] theorem onTone_pending (g : ToneBank → ToneBank) : (s.onTone g).pending = s.pending := rfl

@[simp] theorem onDrill_time (g : DrillCtl → DrillCtl) : (s.onDrill g).time = s.time := rfl
@[simp] theorem onDrill_cal (g : DrillCtl → DrillCtl) : (s.onDrill g).cal = s.cal := rfl
@[simp] theorem onDrill_bell (g : DrillCtl → DrillCtl) : (s.onDrill g).bell = s.bell := rfl
@[simp] theorem onDrill_router (g : DrillCtl → DrillCtl) : (s.onDrill g).router = s.router := rfl
@[simp] theorem onDrill_tone (g : DrillCtl → DrillCtl) : (s.onDrill g).tone = s.tone := rfl
@[simp] theorem onDrill_drill (g : DrillCtl → DrillCtl) : (s.onDrill g).drill = g s.drill := rfl
@[simp] theorem onDrill_line (g : DrillCtl → DrillCtl) : (s.onDrill g).line = s.line := rfl
@[simp] theorem onDrill_scan (g : DrillCtl → DrillCtl) : (s.onDrill g).scan = s.scan := rfl
@[simp] theorem onDrill_power (g : DrillCtl → DrillCtl) : (s.onDrill g).power = s.power := rfl
@[simp] theorem onDrill_rh (g : DrillCtl → DrillCtl) : (s.onDrill g).rh = s.rh := rfl
@[simp] theorem onDrill_mem (g : DrillCtl → DrillCtl) : (s.onDrill g).mem = s.mem := rfl
@[simp] theorem onDrill_pins (g : DrillCtl → DrillCtl) : (s.onDrill g).pins = s.pins := rfl
@[simp] theorem onDrill_work (g : DrillCtl → DrillCtl) : (s.onDrill g).work = s.work := rfl
@[simp] theorem onDrill_pending (g : DrillCtl → DrillCtl) : (s.onDrill g).pending = s.pending := rfl

@[simp] theorem onLine_time (g : LineDrv → LineDrv) : (s.onLine g).time = s.time := rfl
@[simp] theorem onLine_cal (g : LineDrv → LineDrv) : (s.onLine g).cal = s.cal := rfl
@[simp] theorem onLine_bell (g : LineDrv → LineDrv) : (s.onLine g).bell = s.bell := rfl
@[simp] theorem onLine_router (g : LineDrv → LineDrv) : (s.onLine g).router = s.router := rfl
@[simp] theorem onLine_tone (g : LineDrv → LineDrv) : (s.onLine g).tone = s.tone := rfl
@[simp] theorem onLine_drill (g : LineDrv → LineDrv) : (s.onLine g).drill = s.drill := rfl
@[simp] theorem onLine_line (g : LineDrv → LineDrv) : (s.onLine g).line = g s.line := rfl
@[simp] theorem onLine_scan (g : LineDrv → LineDrv) : (s.onLine g).scan = s.scan := rfl
@[simp] theorem onLine_power (g : LineDrv → LineDrv) : (s.onLine g).power = s.power := rfl
@[simp] theorem onLine_rh (g : LineDrv → LineDrv) : (s.onLine g).rh = s.rh := rfl
@[simp] theorem onLine_mem (g : LineDrv → LineDrv) : (s.onLine g).mem = s.mem := rfl
@[simp] theorem onLine_pins (g : LineDrv → LineDrv) : (s.onLine g).pins = s.pins := rfl
@[simp] theorem onLine_work (g : LineDrv → LineDrv) : (s.onLine g).work = s.work := rfl
@[simp] theorem onLine_pending (g : LineDrv → LineDrv) : (s.onLine g).pending = s.pending := rfl

@[simp] theorem onScan_time (g : Scanner → Scanner) : (s.onScan g).time = s.time := rfl
@[simp] theorem onScan_cal (g : Scanner → Scanner) : (s.onScan g).cal = s.cal := rfl
@[simp] theorem onScan_bell (g : Scanner → Scanner) : (s.onScan g).bell = s.bell := rfl
@[simp] theorem onScan_router (g : Scanner → Scanner) : (s.onScan g).router = s.router := rfl
@[simp] theorem onScan_tone (g : Scanner → Scanner) : (s.onScan g).tone = s.tone := rfl
@[simp] theorem onScan_drill (g : Scanner → Scanner) : (s.onScan g).drill = s.drill := rfl
@[simp] theorem onScan_line (g : Scanner → Scanner) : (s.onScan g).line = s.line := rfl
@[simp] theorem onScan_scan (g : Scanner → Scanner) : (s.onScan g).scan = g s.scan := rfl
@[simp] theorem onScan_power (g : Scanner → Scanner) : (s.onScan g).power = s.power := rfl
@[simp] theorem onScan_rh (g : Scanner → Scanner) : (s.onScan g).rh = s.rh := rfl
@[simp] theorem onScan_mem (g : Scanner → Scanner) : (s.onScan g).mem = s.mem := rfl
@[simp] theorem onScan_pins (g : Scanner → Scanner) : (s.onScan g).pins = s.pins := rfl
@[simp] theorem onScan_work (g : Scanner → Scanner) : (s.onScan g).work = s.work := rfl
@[simp] theorem onScan_pending (g : Scanner → Scanner) : (s.onScan g).pending = s.pending := rfl

@[simp] theorem onPower_time (g : PowerMon → PowerMon) : (s.onPower g).time = s.time := rfl
@[simp] theorem onPower_cal (g : PowerMon → PowerMon) : (s.onPower g).cal = s.cal := rfl
@[simp] theorem onPower_bell (g : PowerMon → PowerMon) : (s.onPower g).bell = s.bell := rfl
@[simp] theorem onPower_router (g : PowerMon → PowerMon) : (s.onPower g).router = s.router := rfl
@[simp] theorem onPower_tone (g : PowerMon → PowerMon) : (s.onPower g).tone = s.tone := rfl
@[simp] theorem onPower_drill (g : PowerMon → PowerMon) : (s.onPower g).drill = s.drill := rfl
@[simp] theorem onPower_line (g : PowerMon → PowerMon) : (s.onPower g).line = s.line := rfl
@[simp] theorem onPower_scan (g : PowerMon → PowerMon) : (s.onPower g).scan = s.scan := rfl
@[simp] theorem onPower_power (g : PowerMon → PowerMon) : (s.onPower g).power = g s.power := rfl
@[simp] theorem onPower_rh (g : PowerMon → PowerMon) : (s.onPower g).rh = s.rh := rfl
@[simp] theorem onPower_mem (g : PowerMon → PowerMon) : (s.onPower g).mem = s.mem := rfl
@[simp] theorem onPower_pins (g : PowerMon → PowerMon) : (s.onPower g).pins = s.pins := rfl
@[simp] theorem onPower_work (g : PowerMon → PowerMon) : (s.onPower g).work = s.work := rfl
@[simp] theorem onPower_pending (g : PowerMon → PowerMon) : (s.onPower g).pending = s.pending := rfl

@[simp] theorem onRh_time (g : ReqHandler → ReqHandler) : (s.onRh g).time = s.time := rfl
@[simp] theorem onRh_cal (g : ReqHandler → ReqHandler) : (s.onRh g).cal = s.cal := rfl
@[simp] theorem onRh_bell (g : ReqHandler → ReqHandler) : (s.onRh g).bell = s.bell := rfl
@[simp] theorem onRh_router (g : ReqHandler → ReqHandler) : (s.onRh g).router = s.router := rfl
@[simp] theorem onRh_tone (g : ReqHandler → ReqHandler) : (s.onRh g).tone = s.tone := rfl
@[simp] theorem onRh_drill (g : ReqHandler → ReqHandler) : (s.onRh g).drill = s.drill := rfl
@[simp] theorem onRh_line (g : ReqHandler → ReqHandler) : (s.onRh g).line = s.line := rfl
@[simp] theorem onRh_scan (g : ReqHandler → ReqHandler) : (s.onRh g).scan = s.scan := rfl
@[simp] theorem onRh_power (g : ReqHandler → ReqHandler) : (s.onRh g).power = s.power := rfl
@[simp] theorem onRh_rh (g : ReqHandler → ReqHandler) : (s.onRh g).rh = g s.rh := rfl
@[simp] theorem onRh_mem (g : ReqHandler → ReqHandler) : (s.onRh g).mem = s.mem := rfl
@[simp] theorem onRh_pins (g : ReqHandler → ReqHandler) : (s.onRh g).pins = s.pins := rfl
@[simp] theorem onRh_work (g : ReqHandler → ReqHandler) : (s.onRh g).work = s.work := rfl
@[simp] theorem onRh_pending (g : ReqHandler → ReqHandler) : (s.onRh g).pending = s.pending := rfl

@[simp] theorem onMem_time (g : Mem → Mem) : (s.onMem g).time = s.time := rfl
@[simp] theorem onMem_cal (g : Mem → Mem) : (s.onMem g).cal = s.cal := rfl
@[simp] theorem onMem_bell (g : Mem → Mem) : (s.onMem g).bell = s.bell := rfl
@[simp] theorem onMem_router (g : Mem → Mem) : (s.onMem g).router = s.router := rfl
@[simp] theorem onMem_tone (g : Mem → Mem) : (s.onMem g).tone = s.tone := rfl
@[simp] theorem onMem_drill (g : Mem → Mem) : (s.onMem g).drill = s.drill := rfl
@[simp] theorem onMem_line (g : Mem → Mem) : (s.onMem g).line = s.line := rfl
@[simp] theorem onMem_scan (g : Mem → Mem) : (s.onMem g).scan = s.scan := rfl
@[simp] theorem onMem_power (g : Mem → Mem) : (s.onMem g).power = s.power := rfl
@[simp] theorem onMem_rh (g : Mem → Mem) : (s.onMem g).rh = s.rh := rfl
@[simp] theorem onMem_mem (g : Mem → Mem) : (s.onMem g).mem = g s.mem := rfl
@[simp] theorem onMem_pins (g : Mem → Mem) : (s.onMem g).pins = s.pins := rfl
@[simp] theorem onMem_work (g : Mem → Mem) : (s.onMem g).work = s.work := rfl
@[simp] theorem onMem_pending (g : Mem → Mem) : (s.onMem g).pending = s.pending := rfl

@[simp] theorem onWork_time (g : Work → Work) : (s.onWork g).time = s.time := rfl
@[simp] theorem onWork_cal (g : Work → Work) : (s.onWork g).cal = s.cal := rfl
@[simp] theorem onWork_bell (g : Work → Work) : (s.onWork g).bell = s.bell := rfl
@[simp] theorem onWork_router (g : Work → Work) : (s.onWork g).router = s.router := rfl
@[simp] theorem onWork_tone (g : Work → Work) : (s.onWork g).tone = s.tone := rfl
@[simp] theorem onWork_drill (g : Work → Work) : (s.onWork g).drill = s.drill := rfl
@[simp] theorem onWork_line (g : Work → Work) : (s.onWork g).line = s.line := rfl
@[simp] theorem onWork_scan (g : Work → Work) : (s.onWork g).scan = s.scan := rfl
@[simp] theorem onWork_power (g : Work → Work) : (s.onWork g).power = s.power := rfl
@[simp] theorem onWork_rh (g : Work → Work) : (s.onWork g).rh = s.rh := rfl
@[simp] theorem onWork_mem (g : Work → Work) : (s.onWork g).mem = s.mem := rfl
@[simp] theorem onWork_pins (g : Work → Work) : (s.onWork g).pins = s.pins := rfl
@[simp] theorem onWork_work (g : Work → Work) : (s.onWork g).work = g s.work := rfl
@[simp] theorem onWork_pending (g : Work → Work) : (s.onWork g).pending = s.pending := rfl

@[simp] theorem setPins_time (v : Pins) : (s.setPins v).time = s.time := rfl
@[simp] theorem setPins_cal (v : Pins) : (s.setPins v).cal = s.cal := rfl
@[simp] theorem setPins_bell (v : Pins) : (s.setPins v).bell = s.bell := rfl
@[simp] theorem setPins_router (v : Pins) : (s.setPins v).router = s.router := rfl
@[simp] theorem setPins_tone (v : Pins) : (s.setPins v).tone = s.tone := rfl
@[simp] theorem setPins_drill (v : Pins) : (s.setPins v).drill = s.drill := rfl
@[simp] theorem setPins_line (v : Pins) : (s.setPins v).line = s.line := rfl
@[simp] theorem setPins_scan (v : Pins) : (s.setPins v).scan = s.scan := rfl
@[simp] theorem setPins_power (v : Pins) : (s.setPins v).power = s.power := rfl
@[simp] theorem setPins_rh (v : Pins) : (s.setPins v).rh = s.rh := rfl
@[simp] theorem setPins_mem (v : Pins) : (s.setPins v).mem = s.mem := rfl
@[simp] theorem setPins_pins (v : Pins) : (s.setPins v).pins = v := rfl
@[simp] theorem setPins_work (v : Pins) : (s.setPins v).work = s.work := rfl
@[simp] theorem setPins_pending (v : Pins) : (s.setPins v).pending = s.pending := rfl

@[simp] theorem setPending_time (v : List Instr) : (s.setPending v).time = s.time := rfl
@[simp] theorem setPending_cal (v : List Instr) : (s.setPending v).cal = s.cal := rfl
@[simp] theorem setPending_bell (v : List Instr) : (s.setPending v).bell = s.bell := rfl
@[simp] theorem setPending_router (v : List Instr) : (s.setPending v).router = s.router := rfl
@[simp] theorem setPending_tone (v : List Instr) : (s.setPending v).tone = s.tone := rfl
@[simp] theorem setPending_drill (v : List Instr) : (s.setPending v).drill = s.drill := rfl
@[simp] theorem setPending_line (v : List Instr) : (s.setPending v).line = s.line := rfl
@[simp] theorem setPending_scan (v : List Instr) : (s.setPending v).scan = s.scan := rfl
@[simp] theorem setPending_power (v : List Instr) : (s.setPending v).power = s.power := rfl
@[simp] theorem setPending_rh (v : List Instr) : (s.setPending v).rh = s.rh := rfl
@[simp] theorem setPending_mem (v : List Instr) : (s.setPending v).mem = s.mem := rfl
@[simp] theorem setPending_pins (v : List Instr) : (s.setPending v).pins = s.pins := rfl
@[simp] theorem setPending_work (v : List Instr) : (s.setPending v).work = s.work := rfl
@[simp] theorem setPending_pending (v : List Instr) : (s.setPending v).pending = v := rfl

/-! ### Tables -/

@[simp] theorem tab_put_at_self {α : Type} {n : Nat} (v : Tab α n) (i : Fin n) (x : α) : (v.put i x).at i = x := by
  simp [Tab.put, Tab.at]

theorem tab_put_at {α : Type} {n : Nat} (v : Tab α n) (i j : Fin n) (x : α) :
    (v.put i x).at j = if j = i then x else v.at j := by
  by_cases h : j = i
  · simp [h]
  · have h' : i.val ≠ j.val := fun e => h (Fin.ext e.symm)
    simp [Tab.put, Tab.at, h, h']

@[simp] theorem tab_all_at {α : Type} {n : Nat} (x : α) (i : Fin n) : (Tab.all n x).at i = x := by
  simp [Tab.all, Tab.at]

@[simp] theorem tab_tabulate_at {α : Type} {n : Nat} (f : Fin n → α) (i : Fin n) : (Tab.tabulate n f).at i = f i := by
  simp [Tab.tabulate, Tab.at]

@[simp] theorem tab_map_at {α β : Type} {n : Nat} (v : Tab α n) (f : α → β) (i : Fin n) :
    Tab.at (v.map f) i = f (v.at i) := by
  simp [Tab.at]

@[ext] theorem tab_ext {α : Type} {n : Nat} {u v : Tab α n} (h : ∀ i : Fin n, Tab.at u i = Tab.at v i) : u = v := by
  apply Vector.ext
  intro i hi
  exact h ⟨i, hi⟩

/-! ### Records by number -/

theorem onZone_zone (z y : ZoneId) (f : Zone → Zone) :
    (s.onZone z f).zone y = if y = z then f (s.zone z) else s.zone y := by
  simp [State.onZone, State.zone, tab_put_at]

theorem setSess_sess (n m : SessId) (o : Option Session) :
    (s.setSess n o).sess m = if m = n then o else s.sess m := by
  simp [State.setSess, State.sess, tab_put_at]

theorem onSess_sess (n m : SessId) (f : Session → Session) :
    (s.onSess n f).sess m = if m = n then (s.sess n).map f else s.sess m := by
  simp [State.onSess, setSess_sess]

theorem onBuilding_building (b c : BuildingId) (f : Building → Building) :
    (s.onBuilding b f).building c = if c = b then f (s.building b) else s.building c := by
  simp [State.onBuilding, State.building, tab_put_at]

theorem onClock_clock (l k : LineId) (f : Line → Line) :
    (s.onClock l f).clock k = if k = l then f (s.clock l) else s.clock k := by
  simp [State.onClock, State.clock, tab_put_at]

theorem onGen_gen (g h : GenId) (f : Generator → Generator) :
    (s.onGen g f).gen h = if h = g then f (s.gen g) else s.gen h := by
  simp [State.onGen, State.gen, tab_put_at]

theorem onPlayer_player (p q : PlayerId) (f : Player → Player) :
    (s.onPlayer p f).player q = if q = p then f (s.player p) else s.player q := by
  simp [State.onPlayer, State.player, tab_put_at]

theorem onConsole_console (c d : ConsoleId) (f : Console → Console) :
    (s.onConsole c f).console d = if d = c then f (s.console c) else s.console d := by
  simp [State.onConsole, State.console, tab_put_at]

theorem onChannel_channel (k j : ChannelId) (f : Channel → Channel) :
    (s.onChannel k f).channel j = if j = k then f (s.channel k) else s.channel j := by
  simp [State.onChannel, State.channel, tab_put_at]

/-! ### Dealing with the members of a list in turn -/

@[simp] theorem each_nil {α : Type} (f : α → State → State) : s.each [] f = s := rfl

@[simp] theorem each_cons {α : Type} (x : α) (xs : List α) (f : α → State → State) :
    s.each (x :: xs) f = (f x s).each xs f := rfl

/-- A relation that is reflexive and transitive, and that each member's turn keeps, holds across the whole
list. -/
theorem each_induct {α : Type} (R : State → State → Prop) (refl : ∀ s, R s s) (trans : ∀ {a b c}, R a b → R b c → R a c)
    (f : α → State → State) (h : ∀ x t, R t (f x t)) (xs : List α) : ∀ s : State, R s (s.each xs f) := by
  induction xs with
  | nil => exact fun s => refl s
  | cons x xs ih => exact fun s => trans (h x s) (ih (f x s))

end Sys2Proof.Machine
end

