-- ==== Sys2Proof/Laws/Relations.lean ====
section
/-! SUPPORT. What the shared operations leave alone, said as relations between the state before and after: what a report can do (Pages), what sessions, zones, bells and buildings can do (Calm), what clock lines can do (OnLines), and what all of them have in common (Steady). -/

namespace Sys2Proof.Machine

theorem Pages.refl (s : State) : Pages s s := ⟨rfl, rfl, rfl, rfl, fun _ h => h, id, id, fun _ _ _ => rfl⟩

theorem Pages.trans {a b c : State} (h : Pages a b) (k : Pages b c) : Pages a c :=
  ⟨k.cells.trans h.cells, k.enable.trans h.enable, k.sweeps.trans h.sweeps, k.writer.trans h.writer,
    fun i x => k.notices i (h.notices i x), fun x => k.wf (h.wf x), fun x => k.fits (h.fits x),
    fun x a ha => (k.areas (h.fits x) a ha).trans (h.areas x a ha)⟩

/-- A state with the same rh and mem. -/
theorem Pages.of_eq {s t : State} (h : t.rh = s.rh) (m : t.mem = s.mem) : Pages s t := by
  refine ⟨?_, ?_, ?_, ?_, ?_, ?_, ?_, ?_⟩ <;> simp [h, m]

/-- What a report alone does. -/
structure Reported (s t : State) : Prop extends Pages s t where
  same : t = { s with rh := t.rh, mem := t.mem }

theorem Reported.refl (s : State) : Reported s s := ⟨Pages.refl s, rfl⟩

theorem Reported.trans {a b c : State} (h : Reported a b) (k : Reported b c) : Reported a c :=
  ⟨h.toPages.trans k.toPages, by rw [k.same, h.same]⟩

theorem SessionsKept.refl (k : Nat) (v : Tab (Option Session) 16) : SessionsKept k v k v :=
  ⟨Nat.le_refl _, fun _ y h => .inl ⟨y, h, rfl⟩⟩

theorem SessionsKept.trans {k l m : Nat} {a b c : Tab (Option Session) 16} (h : SessionsKept k a l b)
    (i : SessionsKept l b m c) : SessionsKept k a m c := by
  refine ⟨Nat.le_trans h.seq i.seq, fun n z hz => ?_⟩
  rcases i.kept n z hz with ⟨y, hy, e⟩ | e
  · rcases h.kept n y hy with ⟨x, hx, e2⟩ | e2
    · exact .inl ⟨x, hx, e.trans e2⟩
    · refine .inr ?_
      have : z.ident.seq = y.ident.seq := congrArg Session.seq e
      have e3 : z.seq = y.seq := this
      omega
  · exact .inr (Nat.le_trans h.seq e)

/-- What sessions, zones, bells, generators and buildings can do to the rest: the Time Base, the Calendar Unit, the
lines, the Scanner, power, pins and the queue stand; so do tables, zone settings and console settings; effective
modes stay right. -/
structure Calm (s t : State) : Prop extends Pages s t where
  time     : t.time = s.time
  cal      : t.cal = s.cal
  line     : t.line = s.line
  scan     : t.scan = s.scan
  power    : t.power = s.power
  pins     : t.pins = s.pins
  pending  : t.pending = s.pending
  programs : t.bell.programs = s.bell.programs
  patterns : t.tone.patterns = s.tone.patterns
  profiles : t.drill.profiles = s.drill.profiles
  maps     : t.router.maps = s.router.maps
  layout   : t.router.monitor = s.router.monitor ∧ t.router.spread = s.router.spread
  groups   : t.router.groups = s.router.groups
  zones    : ∀ z, (t.zone z).building = (s.zone z).building ∧ (t.zone z).base = (s.zone z).base ∧
    (t.zone z).override = (s.zone z).override ∧ (t.zone z).fault = (s.zone z).fault
  consoles : ∀ c, t.console c = s.console c ∨ t.console c = { s.console c with session := none }
  sessions : SessionsKept s.router.seq s.router.sessions t.router.seq t.router.sessions
  modes    : s.modesRight → t.modesRight

theorem Calm.soundSide {s t : State} (h : Calm s t) : SoundSide s t :=
  ⟨h.time, h.cal, h.line, h.scan, by rw [h.power], h.pins, h.pending, h.programs, h.patterns, h.profiles, h.maps,
    h.layout, h.groups, h.zones, h.consoles, h.sessions⟩

theorem Calm.refl (s : State) : Calm s s :=
  ⟨Pages.refl s, rfl, rfl, rfl, rfl, rfl, rfl, rfl, rfl, rfl, rfl, rfl, ⟨rfl, rfl⟩, rfl,
    fun _ => ⟨rfl, rfl, rfl, rfl⟩, fun _ => .inl rfl, SessionsKept.refl _ _, id⟩

theorem Calm.trans {a b c : State} (h : Calm a b) (k : Calm b c) : Calm a c where
  toPages := h.toPages.trans k.toPages
  time := k.time.trans h.time
  cal := k.cal.trans h.cal
  line := k.line.trans h.line
  scan := k.scan.trans h.scan
  power := k.power.trans h.power
  pins := k.pins.trans h.pins
  pending := k.pending.trans h.pending
  programs := k.programs.trans h.programs
  patterns := k.patterns.trans h.patterns
  profiles := k.profiles.trans h.profiles
  maps := k.maps.trans h.maps
  layout := ⟨k.layout.1.trans h.layout.1, k.layout.2.trans h.layout.2⟩
  groups := k.groups.trans h.groups
  zones := fun z => ⟨(k.zones z).1.trans (h.zones z).1, (k.zones z).2.1.trans (h.zones z).2.1,
    (k.zones z).2.2.1.trans (h.zones z).2.2.1, (k.zones z).2.2.2.trans (h.zones z).2.2.2⟩
  consoles := fun c => by
    rcases k.consoles c with e | e <;> rcases h.consoles c with d | d <;> rw [e, d]
    · exact .inl rfl
    · exact .inr rfl
    · exact .inr rfl
    · exact .inr rfl
  sessions := h.sessions.trans k.sessions
  modes := fun x => k.modes (h.modes x)

/-- What clock lines can do to the rest: everything but the lines, the Scanner and the reports stands, and grants
stay within K. -/
structure OnLines (s t : State) : Prop extends Pages s t where
  same   : t = { s with line := t.line, scan := t.scan, rh := t.rh, mem := t.mem }
  grants : s.line.withinBudget → t.line.withinBudget

theorem OnLines.refl (s : State) : OnLines s s := ⟨Pages.refl s, rfl, id⟩

theorem OnLines.trans {a b c : State} (h : OnLines a b) (k : OnLines b c) : OnLines a c :=
  ⟨h.toPages.trans k.toPages, by rw [k.same, h.same], fun x => k.grants (h.grants x)⟩

/-- What every block's operation has in common. -/
structure Steady (s t : State) : Prop extends Pages s t where
  time    : t.time = s.time
  power   : t.power = s.power
  pins    : t.pins = s.pins
  pending : t.pending = s.pending
  modes   : s.modesRight → t.modesRight
  grants  : s.line.withinBudget → t.line.withinBudget

theorem Steady.refl (s : State) : Steady s s := ⟨Pages.refl s, rfl, rfl, rfl, rfl, id, id⟩

theorem Steady.trans {a b c : State} (h : Steady a b) (k : Steady b c) : Steady a c :=
  ⟨h.toPages.trans k.toPages, k.time.trans h.time, k.power.trans h.power, k.pins.trans h.pins,
    k.pending.trans h.pending, fun x => k.modes (h.modes x), fun x => k.grants (h.grants x)⟩

theorem Calm.steady {s t : State} (h : Calm s t) : Steady s t :=
  ⟨h.toPages, h.time, h.power, h.pins, h.pending, h.modes, fun x => by rw [h.line]; exact x⟩

theorem OnLines.steady {s t : State} (h : OnLines s t) : Steady s t := by
  refine ⟨h.toPages, ?_, ?_, ?_, ?_, ?_, h.grants⟩
  all_goals rw [h.same]
  exact id

theorem Reported.onLines {s t : State} (h : Reported s t) : OnLines s t := by
  refine ⟨h.toPages, ?_, ?_⟩ <;> rw [h.same]
  exact id

theorem Reported.calm {s t : State} (h : Reported s t) : Calm s t := by
  refine ⟨h.toPages, ?_, ?_, ?_, ?_, ?_, ?_, ?_, ?_, ?_, ?_, ?_, ?_, ?_, ?_, ?_, ?_, ?_⟩
  all_goals rw [h.same]
  · exact ⟨rfl, rfl⟩
  · exact fun _ => ⟨rfl, rfl, rfl, rfl⟩
  · exact fun _ => .inl rfl
  · exact SessionsKept.refl _ _
  · exact id

/-! ### Lists dealt with in turn -/

theorem Calm.each {α : Type} {r s : State} (f : α → State → State) (xs : List α) (hs : Calm r s)
    (h : ∀ x t, Calm t (f x t)) : Calm r (s.each xs f) :=
  hs.trans (each_induct Calm Calm.refl Calm.trans f h xs s)

theorem OnLines.each {α : Type} {r s : State} (f : α → State → State) (xs : List α) (hs : OnLines r s)
    (h : ∀ x t, OnLines t (f x t)) : OnLines r (s.each xs f) :=
  hs.trans (each_induct OnLines OnLines.refl OnLines.trans f h xs s)

theorem Steady.each {α : Type} {r s : State} (f : α → State → State) (xs : List α) (hs : Steady r s)
    (h : ∀ x t, Steady t (f x t)) : Steady r (s.each xs f) :=
  hs.trans (each_induct Steady Steady.refl Steady.trans f h xs s)

/-! ### Reports -/

theorem notify_notice (n : Notice) (s : State) (i : Nat) (h : Mask.has s.rh.notice i = true) :
    Mask.has (s.notify n).rh.notice i = true := by
  simp only [State.notify, onRh_rh, Mask.has, Mask.add, BitVec.getLsbD_or] at *
  simp [h]

theorem Reported.notify (n : Notice) (s : State) : Reported s (s.notify n) :=
  ⟨⟨rfl, rfl, rfl, rfl, notify_notice n s, id, id, fun _ _ _ => rfl⟩, rfl⟩

/-- An update of rh that leaves all but the pages, the queue and the dropped count alone. -/
theorem Reported.onRh {s : State} (f : ReqHandler → ReqHandler) (h1 : (f s.rh).cells = s.rh.cells)
    (h2 : (f s.rh).noticeEnable = s.rh.noticeEnable) (h3 : (f s.rh).sweepCount = s.rh.sweepCount)
    (h4 : (f s.rh).writerOn = s.rh.writerOn) (h5 : (f s.rh).notice = s.rh.notice)
    (h6 : s.rh.fits → (f s.rh).fits) : Reported s (s.onRh f) :=
  ⟨⟨h1, h2, h3, h4, fun i x => by simpa [h5] using x, id, h6, fun _ _ _ => rfl⟩, rfl⟩

/-- A write of bytes that are neither in the request cells nor in the staging area. -/
theorem Reported.write {s : State} (base : Nat) (bs : List Byte)
    (h : s.rh.fits → ∀ a, base ≤ a → a < base + bs.length → ¬ hostArea a) :
    Reported s (s.onMem fun m => m.write base bs) :=
  ⟨⟨rfl, rfl, rfl, rfl, fun _ h => h, wf_write _ _ _, id, fun x a ha =>
    (read_write s.mem base bs a).trans (if_neg fun r => h x a r.1 r.2 ha)⟩, rfl⟩

@[simp] theorem leBytes_length (n : Nat) : ∀ v, (leBytes n v).length = n := by
  induction n with
  | zero => intro v; rfl
  | succ n ih => intro v; simp only [leBytes, List.length_cons, ih]

@[simp] theorem fit_length (n : Nat) (bs : List Byte) : (fit n bs).length = n := by
  simp only [fit, List.length_take, List.length_append, List.length_replicate]
  omega

@[simp] theorem u8_length (v : Nat) : (u8 v).length = 1 := rfl

@[simp] theorem wordBytes_length (w : Word) : (wordBytes w).length = 2 := rfl

@[simp] theorem pageHeader_length (a b c d : Nat) : (pageHeader a b c d).length = 16 := by
  simp [pageHeader]

@[simp] theorem recBytes_length (r : Rec) : r.bytes.length = 16 := by
  simp [Rec.bytes]

theorem Reported.writePageHeader (c : CurPage) (n : Nat) (s : State) : Reported s (s.writePageHeader c n) := by
  refine Reported.write _ _ fun _ a h1 h2 h => ?_
  have := c.page.isLt
  simp only [pageHeader_length, pageBase] at h1 h2
  simp only [hostArea] at h
  omega

theorem Reported.openPage {s t : State} (h : s.openPage = some t) : Reported s t := by
  unfold State.openPage at h
  split at h
  · injection h with h
    subst h
    refine (Reported.writePageHeader _ _ s).trans (Reported.onRh _ rfl rfl rfl rfl rfl ?_)
    intro x
    refine ⟨x.1, fun c hc => ?_⟩
    injection hc with hc
    subst hc
    show (0 : Nat) < 31
    omega
  · cases h

theorem Reported.closePage (c : CurPage) (s : State) : Reported s (s.closePage c) := by
  refine ((Reported.writePageHeader c 2 s).trans (Reported.onRh _ rfl rfl rfl rfl rfl ?_)).trans (Reported.notify _ _)
  exact fun x => ⟨x.1, fun c hc => by cases hc⟩

theorem Reported.appendRec (s : State) (c : CurPage) (r : Rec) (h : s.rh.fits → c.count < Config.pageSlots) :
    Reported s (s.appendRec c r) := by
  have hw : Reported s (s.onMem fun m => m.write (pageBase c.page + 16 + 16 * c.count) r.bytes) := by
    refine Reported.write _ _ fun x a h1 h2 ha => ?_
    have := c.page.isLt
    have := h x
    simp only [recBytes_length, pageBase, Config.pageSlots] at *
    simp only [hostArea] at ha
    omega
  unfold State.appendRec
  dsimp only
  split
  · exact (hw.trans (Reported.writePageHeader _ _ _)).trans (Reported.closePage _ _)
  · rename_i hc
    refine (hw.trans (Reported.writePageHeader _ _ _)).trans (Reported.onRh _ rfl rfl rfl rfl rfl ?_)
    intro x
    refine ⟨x.1, fun d hd => ?_⟩
    injection hd with hd
    subst hd
    simp only [Bool.or_eq_true, decide_eq_true_eq, not_or] at hc
    simp only [Config.pageSlots] at hc ⊢
    omega

theorem withPage_count {s : State} {x : State × CurPage} (h : s.withPage = some x) (f : x.1.rh.fits) :
    x.2.count < Config.pageSlots := by
  unfold State.withPage at h
  split at h
  · rename_i c hc
    injection h with h
    subst h
    exact f.2 c hc
  · split at h
    · rename_i t ht
      cases hc : t.rh.current with
      | none => simp [hc] at h
      | some c =>
        simp only [hc, Option.map_some, Option.some.injEq] at h
        subst h
        exact f.2 c hc
    · cases h

theorem Reported.withPage {s : State} {x : State × CurPage} (h : s.withPage = some x) : Reported s x.1 := by
  unfold State.withPage at h
  split at h
  · injection h with h
    subst h
    exact Reported.refl s
  · split at h
    · rename_i t ht
      cases hc : t.rh.current with
      | none => simp [hc] at h
      | some c =>
        simp only [hc, Option.map_some, Option.some.injEq] at h
        subst h
        exact Reported.openPage ht
    · cases h

/-- The page that withPage gives takes a record. -/
theorem Reported.append {s : State} {x : State × CurPage} (h : s.withPage = some x) (r : Rec) :
    Reported s (x.1.appendRec x.2 r) :=
  (Reported.withPage h).trans (Reported.appendRec x.1 x.2 r (withPage_count h))

theorem Reported.place (rs : List Rec) : ∀ s : State, Reported s (State.place rs s).1 := by
  induction rs with
  | nil => exact Reported.refl
  | cons r rs ih =>
    intro s
    unfold State.place
    split
    · rename_i t c ht
      exact (Reported.append ht r).trans (ih _)
    · exact Reported.refl s

theorem place_length (rs : List Rec) : ∀ s : State, (State.place rs s).2.length ≤ rs.length := by
  induction rs with
  | nil => intro s; simp [State.place]
  | cons r rs ih =>
    intro s
    unfold State.place
    split
    · exact Nat.le_trans (ih _) (by simp)
    · exact Nat.le_refl _

theorem same_onRh {s t : State} (f : ReqHandler → ReqHandler) (h : t = { s with rh := t.rh, mem := t.mem }) :
    t.onRh f = { s with rh := (t.onRh f).rh, mem := (t.onRh f).mem } := by
  obtain ⟨r, m, rfl⟩ : ∃ r m, t = { s with rh := r, mem := m } := ⟨_, _, h⟩
  rfl

theorem Reported.drainQueue (s : State) : Reported s s.drainQueue := by
  unfold State.drainQueue
  dsimp only
  have h := Reported.place s.rh.queue s
  refine ⟨⟨h.cells, h.enable, h.sweeps, h.writer, h.notices, h.wf, fun x => ?_, h.areas⟩, same_onRh _ h.same⟩
  exact ⟨Nat.le_trans (place_length s.rh.queue s) x.1, (h.fits x).2⟩

theorem dropRoutine_length : ∀ (rs q : List Rec), dropRoutine rs = some q → q.length + 1 = rs.length := by
  intro rs
  induction rs with
  | nil => intro q h; cases h
  | cons r rs ih =>
    intro q h
    unfold dropRoutine at h
    split at h
    · cases hd : dropRoutine rs with
      | none => simp [hd] at h
      | some p =>
        simp only [hd, Option.map_some, Option.some.injEq] at h
        subst h
        simp [ih p hd]
    · injection h with h
      subst h
      simp

theorem enqueue_fits (r : Rec) (h : ReqHandler) (x : h.fits) : (h.enqueue r).fits := by
  unfold ReqHandler.enqueue
  split
  · rename_i hl
    exact ⟨by simp only [List.length_append, List.length_cons, List.length_nil]; omega, x.2⟩
  · dsimp only
    split
    · split
      · rename_i q hq
        have := dropRoutine_length _ _ hq
        have hx := x.1
        exact ⟨by simp only [List.length_append, List.length_cons, List.length_nil]; omega, x.2⟩
      · exact x
    · exact x

theorem Reported.enqueue (r : Rec) (s : State) : Reported s (s.onRh (ReqHandler.enqueue r)) := by
  apply Reported.onRh
  case h6 => exact enqueue_fits r s.rh
  all_goals
    unfold ReqHandler.enqueue
    dsimp only
    repeat' split
    all_goals rfl

theorem Reported.placeRec (r : Rec) (s : State) : Reported s (s.placeRec r) := by
  unfold State.placeRec
  split
  · rename_i c hc
    exact Reported.appendRec _ _ _ fun f => f.2 c hc
  · dsimp only
    have h := Reported.drainQueue s
    split
    · split
      · rename_i hx
        exact h.trans (Reported.append hx r)
      · exact h.trans (Reported.enqueue _ _)
    · exact h.trans (Reported.enqueue _ _)

/-- Handing over a report changes only the Request Handler's record and common memory. -/
theorem Reported.report (r : Report) (s : State) : Reported s (s.report r) := by
  unfold State.report
  split
  · dsimp only
    split
    · exact (Reported.notify _ _).trans (Reported.placeRec _ _)
    · exact Reported.placeRec _ _
  · exact Reported.refl s

theorem Calm.report (r : Report) (s : State) : Calm s (s.report r) := (Reported.report r s).calm

theorem Calm.notify (n : Notice) (s : State) : Calm s (s.notify n) := (Reported.notify n s).calm

theorem OnLines.report (r : Report) (s : State) : OnLines s (s.report r) := (Reported.report r s).onLines

theorem Steady.report (r : Report) (s : State) : Steady s (s.report r) := (Calm.report r s).steady

end Sys2Proof.Machine
end

