-- ==== Sys2Proof/Laws/Calm.lean ====
section
/-! SUPPORT. The operations of sessions, zones, generators, players, bells and buildings are calm: what each can do to the rest of the state is what Calm says. One lemma for each operation. -/

namespace Sys2Proof.Machine

/-! ### Updates of records -/

theorem SessionsKept.setSess (n : SessId) (o : Option Session) (s : State)
    (h : ∀ y, o = some y → (∃ x, s.sess n = some x ∧ y.ident = x.ident) ∨ s.router.seq ≤ y.seq) :
    SessionsKept s.router.seq s.router.sessions s.router.seq (s.setSess n o).router.sessions := by
  refine ⟨Nat.le_refl _, fun m y hy => ?_⟩
  have e := setSess_sess (s := s) n m o
  unfold State.sess at e
  rw [e] at hy
  split at hy
  · rename_i e; subst e; exact h y hy
  · exact .inl ⟨y, hy, rfl⟩

/-- A session leaves the table. -/
theorem Calm.freeSess (n : SessId) (s : State) : Calm s (s.setSess n none) :=
  { Calm.refl s with sessions := SessionsKept.setSess n none s fun y h => by cases h }

/-- A session keeps its identity. -/
theorem Calm.onSess (n : SessId) (f : Session → Session) (s : State) (h : ∀ x, (f x).ident = x.ident) :
    Calm s (s.onSess n f) := by
  refine { Calm.refl s with sessions := SessionsKept.setSess n _ s fun y hy => .inl ?_ }
  cases e : s.sess n with
  | none => rw [e] at hy; cases hy
  | some x =>
    rw [e, Option.map_some, Option.some.injEq] at hy
    subst hy
    exact ⟨x, rfl, h x⟩

theorem moveTo_ident (p : Standing) (z : ZoneId) (x : Session) : (x.moveTo p z).ident = x.ident := by
  cases p <;> rfl

theorem Calm.onPlayer (p : PlayerId) (f : Player → Player) (s : State) : Calm s (s.onPlayer p f) := { Calm.refl s with }
theorem Calm.onGen (g : GenId) (f : Generator → Generator) (s : State) : Calm s (s.onGen g f) := { Calm.refl s with }
theorem Calm.onBuilding (b : BuildingId) (f : Building → Building) (s : State) : Calm s (s.onBuilding b f) :=
  { Calm.refl s with }
theorem Calm.onGroup (g : SchedId) (f : GroupWork → GroupWork) (s : State) : Calm s (s.onGroup g f) :=
  { Calm.refl s with }
theorem Calm.onWork (f : Work → Work) (s : State) : Calm s (s.onWork f) := { Calm.refl s with }

theorem Calm.onTone {s : State} (f : ToneBank → ToneBank) (h : (f s.tone).patterns = s.tone.patterns) :
    Calm s (s.onTone f) := { Calm.refl s with patterns := h }
theorem Calm.onBell {s : State} (f : Bell → Bell) (h : (f s.bell).programs = s.bell.programs) :
    Calm s (s.onBell f) := { Calm.refl s with programs := h }
theorem Calm.onDrill {s : State} (f : DrillCtl → DrillCtl) (h : (f s.drill).profiles = s.drill.profiles) :
    Calm s (s.onDrill f) := { Calm.refl s with profiles := h }

/-- An update of the Zone Router that leaves zones, tables and consoles alone. -/
theorem Calm.onRouter {s : State} (f : Router → Router)
    (h : f s.router = { s.router with
      view := (f s.router).view
      players := (f s.router).players, latched := (f s.router).latched, frame := (f s.router).frame
      seen := (f s.router).seen, changed := (f s.router).changed }) :
    Calm s (s.onRouter f) := by
  have e : (s.onRouter f).router = _ := h
  refine { Calm.refl s with maps := ?_, layout := ?_, groups := ?_, zones := ?_, consoles := ?_, sessions := ?_, modes := ?_ }
  · rw [e]
  · rw [e]; exact ⟨rfl, rfl⟩
  · rw [e]
  · intro z; simp only [State.zone]; rw [e]; exact ⟨rfl, rfl, rfl, rfl⟩
  · intro z; simp only [State.console]; rw [e]; exact .inl rfl
  · rw [e]; exact SessionsKept.refl _ _
  · intro m z; have := m z; simp only [State.zone] at this ⊢; rw [e]; exact this

/-- A zone's occupant and held slot change. -/
theorem Calm.onZone {s : State} (z : ZoneId) (f : Zone → Zone)
    (h : ∀ r, f r = { r with occupant := (f r).occupant, held := (f r).held }) : Calm s (s.onZone z f) := by
  refine { Calm.refl s with zones := ?_, modes := ?_ }
  · intro y
    rw [onZone_zone]
    split
    · rename_i e; subst e; rw [h]; exact ⟨rfl, rfl, rfl, rfl⟩
    · exact ⟨rfl, rfl, rfl, rfl⟩
  · intro m y
    rw [onZone_zone]
    split
    · rename_i e; subst e; rw [h]; exact m y
    · exact m y

/-- A console drops its session. -/
theorem Calm.onConsole {s : State} (c : ConsoleId) (f : Console → Console)
    (h : ∀ r, f r = { r with session := none }) : Calm s (s.onConsole c f) := by
  refine { Calm.refl s with consoles := ?_ }
  intro d
  rw [onConsole_console]
  split
  · rename_i e; subst e; exact .inr (h _)
  · exact .inl rfl

/-- A write of bytes that are neither in the request cells nor in the staging area. -/
theorem Calm.onMem {s : State} (base : Nat) (bs : List Byte)
    (h : ∀ a, base ≤ a → a < base + bs.length → ¬ hostArea a) : Calm s (s.onMem fun m => m.write base bs) :=
  (Reported.write base bs fun _ => h).calm

/-! ### Sessions -/

theorem Calm.touch (n : SessId) (s : State) : Calm s (State.touch n s) := by
  unfold State.touch
  try dsimp only
  repeat' first
    | with_reducible apply Calm.refl
    | exact fun _ => rfl
    | exact fun _ => ⟨rfl, rfl⟩
    | exact Eq.refl _
    | assumption
    | with_reducible apply Calm.trans (k := Calm.onWork ..)
    | split
    | intro _ _
    | intro _

theorem Calm.moveZone (n : SessId) (z : ZoneId) (p : Standing) (s : State) : Calm s (State.moveZone n z p s) := by
  unfold State.moveZone
  try dsimp only
  repeat' first
    | with_reducible apply Calm.refl
    | exact fun _ => rfl
    | exact fun _ => ⟨rfl, rfl⟩
    | exact Eq.refl _
    | assumption
    | with_reducible apply Calm.trans (k := Calm.onSess _ _ _ ?_)
    | exact fun _ => moveTo_ident _ _ _
    | with_reducible apply Calm.trans (k := Calm.touch ..)
    | split
    | intro _ _
    | intro _

theorem Calm.connect (n : SessId) (z : ZoneId) (s : State) : Calm s (State.connect n z s) := by
  unfold State.connect
  try dsimp only
  repeat' first
    | with_reducible apply Calm.refl
    | exact fun _ => rfl
    | exact fun _ => ⟨rfl, rfl⟩
    | exact Eq.refl _
    | assumption
    | with_reducible apply Calm.trans (k := Calm.moveZone ..)
    | with_reducible apply Calm.trans (k := Calm.onZone _ _ ?_ )
    | split
    | intro _ _
    | intro _

theorem Calm.holdOccupant (o : SessId) (z : ZoneId) (s : State) : Calm s (State.holdOccupant o z s) := by
  unfold State.holdOccupant
  try dsimp only
  repeat' first
    | with_reducible apply Calm.refl
    | exact fun _ => rfl
    | exact fun _ => ⟨rfl, rfl⟩
    | exact Eq.refl _
    | assumption
    | with_reducible apply Calm.trans (k := Calm.moveZone ..)
    | with_reducible apply Calm.trans (k := Calm.onZone _ _ ?_ )
    | split
    | intro _ _
    | intro _

theorem Calm.judge (mayDefer : Bool) (n : SessId) (z : ZoneId) (s : State) : Calm s (State.judge mayDefer n z s) := by
  unfold State.judge State.meetOccupant
  try dsimp only
  repeat' first
    | with_reducible apply Calm.refl
    | exact fun _ => rfl
    | exact fun _ => ⟨rfl, rfl⟩
    | exact Eq.refl _
    | assumption
    | with_reducible apply Calm.trans (k := Calm.connect ..)
    | with_reducible apply Calm.trans (k := Calm.moveZone ..)
    | with_reducible apply Calm.trans (k := Calm.holdOccupant ..)
    | split
    | intro _ _
    | intro _

theorem Calm.offer (z : ZoneId) (s : State) : Calm s (State.offer z s) := by
  unfold State.offer
  try dsimp only
  repeat' first
    | with_reducible apply Calm.refl
    | exact fun _ => rfl
    | exact fun _ => ⟨rfl, rfl⟩
    | exact Eq.refl _
    | assumption
    | with_reducible apply Calm.each
    | with_reducible apply Calm.trans (k := Calm.moveZone ..)
    | with_reducible apply Calm.trans (k := Calm.connect ..)
    | split
    | intro _ _
    | intro _

theorem Calm.releaseZone (z : ZoneId) (s : State) : Calm s (State.releaseZone z s) := by
  unfold State.releaseZone
  try dsimp only
  repeat' first
    | with_reducible apply Calm.refl
    | exact fun _ => rfl
    | exact fun _ => ⟨rfl, rfl⟩
    | exact Eq.refl _
    | assumption
    | with_reducible apply Calm.trans (k := Calm.connect ..)
    | with_reducible apply Calm.trans (k := Calm.offer ..)
    | with_reducible apply Calm.trans (k := Calm.onZone _ _ ?_ )
    | split
    | intro _ _
    | intro _

theorem Calm.activate (n : SessId) (s : State) : Calm s (State.activate n s) := by
  unfold State.activate
  try dsimp only
  repeat' first
    | with_reducible apply Calm.refl
    | exact fun _ => rfl
    | exact fun _ => ⟨rfl, rfl⟩
    | exact Eq.refl _
    | assumption
    | with_reducible apply Calm.trans (k := Calm.onSess _ _ _ ?_)
    | exact fun _ => moveTo_ident _ _ _
    | split
    | intro _ _
    | intro _

theorem Calm.joinGen (g : GenId) (n : SessId) (s : State) : Calm s (State.joinGen g n s) := by
  unfold State.joinGen
  try dsimp only
  repeat' first
    | with_reducible apply Calm.refl
    | exact fun _ => rfl
    | exact fun _ => ⟨rfl, rfl⟩
    | exact Eq.refl _
    | assumption
    | with_reducible apply Calm.trans (k := Calm.onGen ..)
    | with_reducible apply Calm.trans (k := Calm.activate ..)
    | split
    | intro _ _
    | intro _

theorem Calm.grantGen (g : GenId) (n : SessId) (s : State) : Calm s (State.grantGen g n s) := by
  unfold State.grantGen
  try dsimp only
  repeat' first
    | with_reducible apply Calm.refl
    | exact fun _ => rfl
    | exact fun _ => ⟨rfl, rfl⟩
    | exact Eq.refl _
    | assumption
    | with_reducible apply Calm.each
    | with_reducible apply Calm.trans (k := Calm.onGen ..)
    | with_reducible apply Calm.trans (k := Calm.activate ..)
    | with_reducible apply Calm.trans (k := Calm.joinGen ..)
    | with_reducible apply Calm.trans (k := Calm.onTone _ ?_ )
    | split
    | intro _ _
    | intro _

theorem Calm.serveGen (g : GenId) (s : State) : Calm s (State.serveGen g s) := by
  unfold State.serveGen
  try dsimp only
  repeat' first
    | with_reducible apply Calm.refl
    | exact fun _ => rfl
    | exact fun _ => ⟨rfl, rfl⟩
    | exact Eq.refl _
    | assumption
    | with_reducible apply Calm.trans (k := Calm.grantGen ..)
    | with_reducible apply Calm.trans (k := Calm.onTone _ ?_ )
    | split
    | intro _ _
    | intro _

theorem Calm.leaveGen (n : SessId) (g : GenId) (s : State) : Calm s (State.leaveGen n g s) := by
  unfold State.leaveGen
  try dsimp only
  repeat' first
    | with_reducible apply Calm.refl
    | exact fun _ => rfl
    | exact fun _ => ⟨rfl, rfl⟩
    | exact Eq.refl _
    | assumption
    | with_reducible apply Calm.trans (k := Calm.onGen ..)
    | with_reducible apply Calm.trans (k := Calm.serveGen ..)
    | split
    | intro _ _
    | intro _

theorem Calm.judgePause (n : SessId) (s : State) : Calm s (State.judgePause n s) := by
  unfold State.judgePause
  try dsimp only
  repeat' first
    | with_reducible apply Calm.refl
    | exact fun _ => rfl
    | exact fun _ => ⟨rfl, rfl⟩
    | exact Eq.refl _
    | assumption
    | with_reducible apply Calm.trans (k := Calm.onSess _ _ _ ?_)
    | exact fun _ => moveTo_ident _ _ _
    | with_reducible apply Calm.trans (k := Calm.onPlayer ..)
    | split
    | intro _ _
    | intro _

theorem Calm.grantPlayer (p : PlayerId) (n : SessId) (s : State) : Calm s (State.grantPlayer p n s) := by
  unfold State.grantPlayer
  try dsimp only
  repeat' first
    | with_reducible apply Calm.refl
    | exact fun _ => rfl
    | exact fun _ => ⟨rfl, rfl⟩
    | exact Eq.refl _
    | assumption
    | with_reducible apply Calm.trans (k := Calm.onPlayer ..)
    | with_reducible apply Calm.trans (k := Calm.activate ..)
    | with_reducible apply Calm.trans (k := Calm.judgePause ..)
    | split
    | intro _ _
    | intro _

theorem Calm.servePlayer (p : PlayerId) (s : State) : Calm s (State.servePlayer p s) := by
  unfold State.servePlayer
  try dsimp only
  repeat' first
    | with_reducible apply Calm.refl
    | exact fun _ => rfl
    | exact fun _ => ⟨rfl, rfl⟩
    | exact Eq.refl _
    | assumption
    | with_reducible apply Calm.trans (k := Calm.onPlayer ..)
    | with_reducible apply Calm.trans (k := Calm.grantPlayer ..)
    | split
    | intro _ _
    | intro _

theorem Calm.leavePlayer (p : PlayerId) (s : State) : Calm s (State.leavePlayer p s) := by
  unfold State.leavePlayer
  try dsimp only
  repeat' first
    | with_reducible apply Calm.refl
    | exact fun _ => rfl
    | exact fun _ => ⟨rfl, rfl⟩
    | exact Eq.refl _
    | assumption
    | with_reducible apply Calm.trans (k := Calm.onPlayer ..)
    | with_reducible apply Calm.trans (k := Calm.servePlayer ..)
    | split
    | intro _ _
    | intro _

theorem Calm.reportEnd (n : SessId) (x : Session) (cause : EndCause) (s : State) : Calm s (State.reportEnd n x cause s) := by
  unfold State.reportEnd
  try dsimp only
  repeat' first
    | with_reducible apply Calm.refl
    | exact fun _ => rfl
    | exact fun _ => ⟨rfl, rfl⟩
    | exact Eq.refl _
    | assumption
    | with_reducible apply Calm.each
    | with_reducible apply Calm.trans (k := Calm.report ..)
    | split
    | intro _ _
    | intro _

theorem Calm.tellBuilding (b : BuildingId) (n : SessId) (cause : EndCause) (s : State) : Calm s (State.tellBuilding b n cause s) := by
  unfold State.tellBuilding
  try dsimp only
  repeat' first
    | with_reducible apply Calm.refl
    | exact fun _ => rfl
    | exact fun _ => ⟨rfl, rfl⟩
    | exact Eq.refl _
    | assumption
    | with_reducible apply Calm.trans (k := Calm.onBuilding ..)
    | with_reducible apply Calm.trans (k := Calm.onWork ..)
    | split
    | intro _ _
    | intro _

theorem Calm.returnSource (n : SessId) (x : Session) (s : State) : Calm s (State.returnSource n x s) := by
  unfold State.returnSource
  try dsimp only
  repeat' first
    | with_reducible apply Calm.refl
    | exact fun _ => rfl
    | exact fun _ => ⟨rfl, rfl⟩
    | exact Eq.refl _
    | assumption
    | with_reducible apply Calm.trans (k := Calm.leaveGen ..)
    | with_reducible apply Calm.trans (k := Calm.leavePlayer ..)
    | split
    | intro _ _
    | intro _

theorem Calm.dropFromConsoles (n : SessId) (s : State) : Calm s (State.dropFromConsoles n s) := by
  unfold State.dropFromConsoles
  try dsimp only
  repeat' first
    | with_reducible apply Calm.refl
    | exact fun _ => rfl
    | exact fun _ => ⟨rfl, rfl⟩
    | exact Eq.refl _
    | assumption
    | with_reducible apply Calm.each
    | with_reducible apply Calm.trans (k := Calm.onConsole _ _ ?_ )
    | split
    | intro _ _
    | intro _

theorem Calm.unlist (n : SessId) (x : Session) (s : State) : Calm s (State.unlist n x s) := by
  unfold State.unlist
  try dsimp only
  repeat' first
    | with_reducible apply Calm.refl
    | exact fun _ => rfl
    | exact fun _ => ⟨rfl, rfl⟩
    | exact Eq.refl _
    | assumption
    | with_reducible apply Calm.each
    | with_reducible apply Calm.trans (k := Calm.freeSess ..)
    | with_reducible apply Calm.trans (k := Calm.onZone _ _ ?_ )
    | with_reducible apply Calm.trans (k := Calm.onRouter _ ?_ )
    | with_reducible apply Calm.trans (k := Calm.onTone _ ?_ )
    | split
    | intro _ _
    | intro _

theorem Calm.releaseAll (n : SessId) (x : Session) (s : State) : Calm s (State.releaseAll n x s) := by
  unfold State.releaseAll
  try dsimp only
  repeat' first
    | with_reducible apply Calm.refl
    | exact fun _ => rfl
    | exact fun _ => ⟨rfl, rfl⟩
    | exact Eq.refl _
    | assumption
    | with_reducible apply Calm.each
    | with_reducible apply Calm.trans (k := Calm.releaseZone ..)
    | with_reducible apply Calm.trans (k := Calm.onZone _ _ ?_ )
    | split
    | intro _ _
    | intro _

theorem Calm.endOne (n : SessId) (cause : EndCause) (s : State) : Calm s (State.endOne n cause s) := by
  unfold State.endOne
  try dsimp only
  repeat' first
    | with_reducible apply Calm.refl
    | exact fun _ => rfl
    | exact fun _ => ⟨rfl, rfl⟩
    | exact Eq.refl _
    | assumption
    | with_reducible apply Calm.trans (k := Calm.unlist ..)
    | with_reducible apply Calm.trans (k := Calm.releaseAll ..)
    | with_reducible apply Calm.trans (k := Calm.returnSource ..)
    | with_reducible apply Calm.trans (k := Calm.dropFromConsoles ..)
    | with_reducible apply Calm.trans (k := Calm.reportEnd ..)
    | with_reducible apply Calm.trans (k := Calm.onWork ..)
    | with_reducible apply Calm.trans (k := Calm.tellBuilding ..)
    | split
    | intro _ _
    | intro _

theorem Calm.settleFrom (last : Option SessId) (k : Nat) : ∀ s : State, Calm s (s.settleFrom last k) := by
  induction k with
  | zero => exact Calm.refl
  | succ k ih =>
    intro s
    unfold State.settleFrom
    dsimp only
    have h : Calm s (s.each s.work.touched State.judgePause) := Calm.each _ _ (Calm.refl s) Calm.judgePause
    split
    · exact h.trans (Calm.onWork _ _)
    · exact (h.trans (Calm.endOne _ _ _)).trans (ih _)

theorem Calm.settle (s : State) : Calm s (State.settle s) := by
  unfold State.settle
  try dsimp only
  repeat' first
    | with_reducible apply Calm.refl
    | exact fun _ => rfl
    | exact fun _ => ⟨rfl, rfl⟩
    | exact Eq.refl _
    | assumption
    | with_reducible apply Calm.trans (k := Calm.settleFrom ..)
    | split
    | intro _ _
    | intro _

theorem Calm.endSession (n : SessId) (cause : EndCause) (s : State) : Calm s (State.endSession n cause s) := by
  unfold State.endSession
  try dsimp only
  repeat' first
    | with_reducible apply Calm.refl
    | exact fun _ => rfl
    | exact fun _ => ⟨rfl, rfl⟩
    | exact Eq.refl _
    | assumption
    | with_reducible apply Calm.trans (k := Calm.endOne ..)
    | with_reducible apply Calm.trans (k := Calm.settle ..)
    | split
    | intro _ _
    | intro _

theorem Calm.endSessions (ns : List SessId) (cause : EndCause) (s : State) : Calm s (State.endSessions ns cause s) := by
  unfold State.endSessions
  try dsimp only
  repeat' first
    | with_reducible apply Calm.refl
    | exact fun _ => rfl
    | exact fun _ => ⟨rfl, rfl⟩
    | exact Eq.refl _
    | assumption
    | with_reducible apply Calm.each
    | with_reducible apply Calm.trans (k := Calm.endSession ..)
    | split
    | intro _ _
    | intro _

theorem Calm.takeGen (g : GenId) (n : SessId) (s : State) : Calm s (State.takeGen g n s) := by
  unfold State.takeGen
  try dsimp only
  repeat' first
    | with_reducible apply Calm.refl
    | exact fun _ => rfl
    | exact fun _ => ⟨rfl, rfl⟩
    | exact Eq.refl _
    | assumption
    | with_reducible apply Calm.trans (k := Calm.onWork ..)
    | with_reducible apply Calm.trans (k := Calm.endSessions ..)
    | with_reducible apply Calm.trans (k := Calm.grantGen ..)
    | split
    | intro _ _
    | intro _

theorem Calm.askGen (n : SessId) (s : State) : Calm s (State.askGen n s) := by
  unfold State.askGen
  try dsimp only
  repeat' first
    | with_reducible apply Calm.refl
    | exact fun _ => rfl
    | exact fun _ => ⟨rfl, rfl⟩
    | exact Eq.refl _
    | assumption
    | with_reducible apply Calm.trans (k := Calm.joinGen ..)
    | with_reducible apply Calm.trans (k := Calm.grantGen ..)
    | with_reducible apply Calm.trans (k := Calm.takeGen ..)
    | with_reducible apply Calm.trans (k := Calm.endSession ..)
    | with_reducible apply Calm.trans (k := Calm.onTone _ ?_ )
    | split
    | intro _ _
    | intro _

theorem Calm.askPlayer (n : SessId) (p : PlayerId) (s : State) : Calm s (State.askPlayer n p s) := by
  unfold State.askPlayer
  try dsimp only
  repeat' first
    | with_reducible apply Calm.refl
    | exact fun _ => rfl
    | exact fun _ => ⟨rfl, rfl⟩
    | exact Eq.refl _
    | assumption
    | with_reducible apply Calm.trans (k := Calm.grantPlayer ..)
    | with_reducible apply Calm.trans (k := Calm.onWork ..)
    | with_reducible apply Calm.trans (k := Calm.endSession ..)
    | with_reducible apply Calm.trans (k := Calm.onPlayer ..)
    | split
    | intro _ _
    | intro _

theorem Calm.askSource (n : SessId) (s : State) : Calm s (State.askSource n s) := by
  unfold State.askSource
  try dsimp only
  repeat' first
    | with_reducible apply Calm.refl
    | exact fun _ => rfl
    | exact fun _ => ⟨rfl, rfl⟩
    | exact Eq.refl _
    | assumption
    | with_reducible apply Calm.trans (k := Calm.activate ..)
    | with_reducible apply Calm.trans (k := Calm.askGen ..)
    | with_reducible apply Calm.trans (k := Calm.askPlayer ..)
    | split
    | intro _ _
    | intro _

/-- A record is filled with a session that takes the next creation sequence. -/
theorem Calm.fillSess (n : SessId) (x : Session) (s : State) (h : x.seq = s.router.seq) :
    Calm s ((s.setSess n (some x)).onRouter fun r => { r with seq := r.seq + 1 }) := by
  have k := SessionsKept.setSess n (some x) s fun y e => .inr (by cases e; omega)
  exact { Calm.refl s with sessions := ⟨Nat.le_succ _, k.kept⟩ }

theorem Calm.enterSession (a : SessionAsk) (n : SessId) (s : State) : Calm s (State.enterSession a n s) := by
  unfold State.enterSession
  dsimp only
  with_reducible apply Calm.trans (k := Calm.settleFrom ..)
  refine Calm.each _ _ ?_ fun z t => Calm.judge _ _ _ _
  with_reducible apply Calm.trans (k := Calm.touch ..)
  exact Calm.fillSess n _ s rfl

theorem Calm.createSession (a : SessionAsk) (s : State) : Calm s (s.createSession a).1 := by
  unfold State.createSession
  split
  · exact Calm.refl s
  · split
    · exact Calm.refl s
    · exact (Calm.enterSession _ _ _).trans (Calm.askSource _ _)

theorem Calm.faultZone (z : ZoneId) (s : State) : Calm s (State.faultZone z s) := by
  unfold State.faultZone
  try dsimp only
  repeat' first
    | with_reducible apply Calm.refl
    | exact fun _ => rfl
    | exact fun _ => ⟨rfl, rfl⟩
    | exact Eq.refl _
    | assumption
    | with_reducible apply Calm.trans (k := Calm.moveZone ..)
    | with_reducible apply Calm.trans (k := Calm.onZone _ _ ?_ )
    | split
    | intro _ _
    | intro _

theorem Calm.loseZone (z : ZoneId) (n : SessId) (s : State) : Calm s (State.loseZone z n s) := by
  unfold State.loseZone
  try dsimp only
  repeat' first
    | with_reducible apply Calm.refl
    | exact fun _ => rfl
    | exact fun _ => ⟨rfl, rfl⟩
    | exact Eq.refl _
    | assumption
    | with_reducible apply Calm.trans (k := Calm.moveZone ..)
    | with_reducible apply Calm.trans (k := Calm.onZone _ _ ?_ )
    | split
    | intro _ _
    | intro _

theorem Calm.rejudge (z : ZoneId) (s : State) : Calm s (State.rejudge z s) := by
  unfold State.rejudge
  try dsimp only
  repeat' first
    | with_reducible apply Calm.refl
    | exact fun _ => rfl
    | exact fun _ => ⟨rfl, rfl⟩
    | exact Eq.refl _
    | assumption
    | with_reducible apply Calm.each
    | with_reducible apply Calm.trans (k := Calm.faultZone ..)
    | with_reducible apply Calm.trans (k := Calm.loseZone ..)
    | with_reducible apply Calm.trans (k := Calm.releaseZone ..)
    | with_reducible apply Calm.trans (k := Calm.offer ..)
    | with_reducible apply Calm.trans (k := Calm.settle ..)
    | split
    | intro _ _
    | intro _

theorem Calm.sendFrame (s : State) : Calm s (State.sendFrame s) := by
  unfold State.sendFrame
  try dsimp only
  repeat' first
    | with_reducible apply Calm.refl
    | exact fun _ => rfl
    | exact fun _ => ⟨rfl, rfl⟩
    | exact Eq.refl _
    | assumption
    | with_reducible apply Calm.trans (k := Calm.onRouter _ ?_ )
    | split
    | intro _ _
    | intro _

/-! ### Zones -/

/-- Refreshing a zone makes its effective mode right, where the others already are. -/
theorem refreshZone_modes (z : ZoneId) (s : State)
    (h : ∀ y, y ≠ z → (s.zone y).effective = (s.zone y).compute) : (s.refreshZone z).modesRight := by
  unfold State.refreshZone
  split
  · rename_i e
    intro y
    by_cases hy : y = z
    · subst hy; exact e.symm
    · exact h y hy
  · refine (Calm.rejudge _ _).modes ?_
    intro y
    rw [onZone_zone]
    split
    · rfl
    · rename_i hy; exact h y hy

theorem refreshZone_zones (z : ZoneId) (s : State) (y : ZoneId) :
    ((s.refreshZone z).zone y).building = (s.zone y).building ∧ ((s.refreshZone z).zone y).base = (s.zone y).base ∧
    ((s.refreshZone z).zone y).override = (s.zone y).override ∧ ((s.refreshZone z).zone y).fault = (s.zone y).fault := by
  unfold State.refreshZone
  split
  · exact ⟨rfl, rfl, rfl, rfl⟩
  · have h := (Calm.rejudge z (s.onZone z fun r => { r with effective := r.compute })).zones y
    rw [onZone_zone] at h
    split at h <;> simp_all

/-- A zone's quiet marks change, and its effective mode with them (R59). -/
theorem Calm.changeZone {s : State} (z : ZoneId) (f : Zone → Zone)
    (h : ∀ r, (f r).building = r.building ∧ (f r).base = r.base ∧ (f r).override = r.override ∧
      (f r).fault = r.fault) : Calm s (s.changeZone z f) := by
  have hz : ∀ y, ((s.onZone z f).zone y).building = (s.zone y).building ∧
      ((s.onZone z f).zone y).base = (s.zone y).base ∧ ((s.onZone z f).zone y).override = (s.zone y).override ∧
      ((s.onZone z f).zone y).fault = (s.zone y).fault := by
    intro y
    rw [onZone_zone]
    split
    · rename_i e; subst e; exact h _
    · exact ⟨rfl, rfl, rfl, rfl⟩
  have hr : ∀ t : State, Calm (t.onZone z fun r => { r with effective := r.compute })
      ((t.onZone z fun r => { r with effective := r.compute }).rejudge z) := fun t => Calm.rejudge z _
  have k := hr (s.onZone z f)
  have hm : s.modesRight → (s.changeZone z f).modesRight := by
    intro m
    refine refreshZone_modes z _ fun y hy => ?_
    rw [onZone_zone, if_neg hy]
    exact m y
  have hzz : ∀ y, ((s.changeZone z f).zone y).building = (s.zone y).building ∧
      ((s.changeZone z f).zone y).base = (s.zone y).base ∧ ((s.changeZone z f).zone y).override = (s.zone y).override ∧
      ((s.changeZone z f).zone y).fault = (s.zone y).fault := by
    intro y
    have a := refreshZone_zones z (s.onZone z f) y
    have b := hz y
    exact ⟨a.1.trans b.1, a.2.1.trans b.2.1, a.2.2.1.trans b.2.2.1, a.2.2.2.trans b.2.2.2⟩
  unfold State.changeZone at hm hzz ⊢
  unfold State.refreshZone at hm hzz ⊢
  split
  · rename_i e
    simp only [e, if_true] at hm hzz
    exact { Calm.refl s with zones := hzz, modes := hm }
  · rename_i e
    simp only [e, if_false] at hm hzz
    exact { k with zones := hzz, modes := hm }

theorem Calm.takeDayQuiet (zones : ZoneSet) (s : State) : Calm s (s.takeDayQuiet zones) :=
  Calm.each _ _ (Calm.refl s) fun _ _ => Calm.changeZone _ _ fun _ => ⟨rfl, rfl, rfl, rfl⟩

theorem Calm.takeSchedQuiet (z : ZoneId) (mark : Bool) (s : State) : Calm s (s.takeSchedQuiet z mark) :=
  Calm.changeZone _ _ fun _ => ⟨rfl, rfl, rfl, rfl⟩

theorem Calm.takeBuildingState (b : BuildingId) (st : BState) (s : State) : Calm s (State.takeBuildingState b st s) := by
  unfold State.takeBuildingState
  try dsimp only
  repeat' first
    | with_reducible apply Calm.refl
    | exact fun _ => rfl
    | exact fun _ => ⟨rfl, rfl⟩
    | exact Eq.refl _
    | assumption
    | with_reducible apply Calm.each
    | with_reducible apply Calm.trans (k := Calm.rejudge ..)
    | with_reducible apply Calm.trans (k := Calm.onRouter _ ?_ )
    | split
    | intro _ _
    | intro _

/-! ### Bells -/

theorem Calm.setGroupQuiet (g : SchedId) (zones : ZoneSet) (s : State) : Calm s (State.setGroupQuiet g zones s) := by
  unfold State.setGroupQuiet
  try dsimp only
  repeat' first
    | with_reducible apply Calm.refl
    | exact fun _ => rfl
    | exact fun _ => ⟨rfl, rfl⟩
    | exact Eq.refl _
    | assumption
    | with_reducible apply Calm.each
    | with_reducible apply Calm.trans (k := Calm.onGroup ..)
    | with_reducible apply Calm.trans (k := Calm.takeSchedQuiet ..)
    | split
    | intro _ _
    | intro _

theorem Calm.recordResume (g : SchedId) (ref : EntryRef) (bs : BuildingSet) (s : State) : Calm s (State.recordResume g ref bs s) := by
  unfold State.recordResume
  try dsimp only
  repeat' first
    | with_reducible apply Calm.refl
    | exact fun _ => rfl
    | exact fun _ => ⟨rfl, rfl⟩
    | exact Eq.refl _
    | assumption
    | with_reducible apply Calm.trans (k := Calm.onBell _ ?_ )
    | split
    | intro _ _
    | intro _

theorem Calm.sound (g : SchedId) (ref : EntryRef) (e : Entry) (zones suppressed : ZoneSet) (s : State) :
    Calm s (s.sound g ref e zones suppressed).1 := by
  unfold State.sound
  dsimp only
  split
  · exact Calm.refl s
  · have h := Calm.createSession (sessionAskOf g ref e (zones &&& ~~~suppressed) suppressed) s
    split <;> rename_i hx <;> rw [hx] at h <;> exact h

theorem Calm.fireSound (g : SchedId) (ref : EntryRef) (e : Entry) (lateness : Nat) (only : Option BuildingId)
    (s : State) : Calm s (s.fireSound g ref e lateness only) := by
  unfold State.fireSound
  dsimp only
  split
  · exact Calm.report _ _
  · have h := Calm.sound g ref e (s.firingZones g e only) (s.suppressedZones (s.firingZones g e only)) s
    generalize State.sound g ref e (s.firingZones g e only) (s.suppressedZones (s.firingZones g e only)) s = p at h ⊢
    obtain ⟨t, out⟩ := p
    dsimp only at h ⊢
    split
    · exact (h.trans (Calm.recordResume _ _ _ _)).trans (Calm.report _ _)
    · exact h.trans (Calm.report _ _)

theorem Calm.fireQuiet (g : SchedId) (ref : EntryRef) (e : Entry) (lateness : Nat) (s : State) : Calm s (State.fireQuiet g ref e lateness s) := by
  unfold State.fireQuiet
  try dsimp only
  repeat' first
    | with_reducible apply Calm.refl
    | exact fun _ => rfl
    | exact fun _ => ⟨rfl, rfl⟩
    | exact Eq.refl _
    | assumption
    | with_reducible apply Calm.trans (k := Calm.report ..)
    | with_reducible apply Calm.trans (k := Calm.setGroupQuiet ..)
    | split
    | intro _ _
    | intro _

theorem Calm.fire (g : SchedId) (ref : EntryRef) (e : Entry) (lateness : Nat) (only : Option BuildingId) (s : State) : Calm s (State.fire g ref e lateness only s) := by
  unfold State.fire
  try dsimp only
  repeat' first
    | with_reducible apply Calm.refl
    | exact fun _ => rfl
    | exact fun _ => ⟨rfl, rfl⟩
    | exact Eq.refl _
    | assumption
    | with_reducible apply Calm.trans (k := Calm.fireSound ..)
    | with_reducible apply Calm.trans (k := Calm.fireQuiet ..)
    | split
    | intro _ _
    | intro _

theorem Calm.takeEntry (g : SchedId) (p : ProgId) (now : Nat) (ke : Nat × Entry) (s : State) : Calm s (State.takeEntry g p now ke s) := by
  unfold State.takeEntry
  try dsimp only
  repeat' first
    | with_reducible apply Calm.refl
    | exact fun _ => rfl
    | exact fun _ => ⟨rfl, rfl⟩
    | exact Eq.refl _
    | assumption
    | with_reducible apply Calm.trans (k := Calm.fire ..)
    | with_reducible apply Calm.trans (k := Calm.report ..)
    | split
    | intro _ _
    | intro _

theorem Calm.runWatermark (g : SchedId) (now : Nat) (s : State) : Calm s (State.runWatermark g now s) := by
  unfold State.runWatermark
  try dsimp only
  repeat' first
    | with_reducible apply Calm.refl
    | exact fun _ => rfl
    | exact fun _ => ⟨rfl, rfl⟩
    | exact Eq.refl _
    | assumption
    | with_reducible apply Calm.each
    | with_reducible apply Calm.trans (k := Calm.takeEntry ..)
    | with_reducible apply Calm.trans (k := Calm.onGroup ..)
    | split
    | intro _ _
    | intro _

theorem Calm.clearResume (g : SchedId) (s : State) : Calm s (State.clearResume g s) := by
  unfold State.clearResume
  try dsimp only
  repeat' first
    | with_reducible apply Calm.refl
    | exact fun _ => rfl
    | exact fun _ => ⟨rfl, rfl⟩
    | exact Eq.refl _
    | assumption
    | with_reducible apply Calm.trans (k := Calm.onBell _ ?_ )
    | split
    | intro _ _
    | intro _

theorem Calm.changeDate (g : SchedId) (d now : Nat) (s : State) : Calm s (State.changeDate g d now s) := by
  unfold State.changeDate
  try dsimp only
  repeat' first
    | with_reducible apply Calm.refl
    | exact fun _ => rfl
    | exact fun _ => ⟨rfl, rfl⟩
    | exact Eq.refl _
    | assumption
    | with_reducible apply Calm.trans (k := Calm.onGroup ..)
    | with_reducible apply Calm.trans (k := Calm.setGroupQuiet ..)
    | with_reducible apply Calm.trans (k := Calm.clearResume ..)
    | with_reducible apply Calm.trans (k := Calm.report ..)
    | with_reducible apply Calm.trans (k := Calm.runWatermark ..)
    | split
    | intro _ _
    | intro _

theorem Calm.switchProgram (g : SchedId) (prog : Option ProgId) (s : State) : Calm s (State.switchProgram g prog s) := by
  unfold State.switchProgram
  try dsimp only
  repeat' first
    | with_reducible apply Calm.refl
    | exact fun _ => rfl
    | exact fun _ => ⟨rfl, rfl⟩
    | exact Eq.refl _
    | assumption
    | with_reducible apply Calm.trans (k := Calm.onGroup ..)
    | with_reducible apply Calm.trans (k := Calm.setGroupQuiet ..)
    | with_reducible apply Calm.trans (k := Calm.clearResume ..)
    | split
    | intro _ _
    | intro _

theorem Calm.takeSelection (g : SchedId) (d : Nat) (prog : Option ProgId) (s : State) : Calm s (State.takeSelection g d prog s) := by
  unfold State.takeSelection
  try dsimp only
  repeat' first
    | with_reducible apply Calm.refl
    | exact fun _ => rfl
    | exact fun _ => ⟨rfl, rfl⟩
    | exact Eq.refl _
    | assumption
    | with_reducible apply Calm.trans (k := Calm.switchProgram ..)
    | split
    | intro _ _
    | intro _

theorem Calm.bellInstall (s : State) : Calm s (State.bellInstall s) := by
  unfold State.bellInstall
  try dsimp only
  repeat' first
    | with_reducible apply Calm.refl
    | exact fun _ => rfl
    | exact fun _ => ⟨rfl, rfl⟩
    | exact Eq.refl _
    | assumption
    | with_reducible apply Calm.each
    | with_reducible apply Calm.trans (k := Calm.switchProgram ..)
    | split
    | intro _ _
    | intro _

theorem Calm.handQuietMarks (s : State) : Calm s (State.handQuietMarks s) := by
  unfold State.handQuietMarks
  try dsimp only
  repeat' first
    | with_reducible apply Calm.refl
    | exact fun _ => rfl
    | exact fun _ => ⟨rfl, rfl⟩
    | exact Eq.refl _
    | assumption
    | with_reducible apply Calm.each
    | with_reducible apply Calm.trans (k := Calm.takeSchedQuiet ..)
    | split
    | intro _ _
    | intro _

theorem Calm.resumeRing (b : BuildingId) (g : SchedId) (s : State) : Calm s (State.resumeRing b g s) := by
  unfold State.resumeRing
  try dsimp only
  repeat' first
    | with_reducible apply Calm.refl
    | exact fun _ => rfl
    | exact fun _ => ⟨rfl, rfl⟩
    | exact Eq.refl _
    | assumption
    | with_reducible apply Calm.trans (k := Calm.fire ..)
    | with_reducible apply Calm.trans (k := Calm.onBell _ ?_ )
    | split
    | intro _ _
    | intro _

theorem Calm.offerResume (b : BuildingId) (s : State) : Calm s (State.offerResume b s) := by
  unfold State.offerResume
  try dsimp only
  repeat' first
    | with_reducible apply Calm.refl
    | exact fun _ => rfl
    | exact fun _ => ⟨rfl, rfl⟩
    | exact Eq.refl _
    | assumption
    | with_reducible apply Calm.each
    | with_reducible apply Calm.trans (k := Calm.resumeRing ..)
    | split
    | intro _ _
    | intro _

theorem Calm.bellBuildingState (b : BuildingId) (st : BState) (s : State) : Calm s (State.bellBuildingState b st s) := by
  unfold State.bellBuildingState
  try dsimp only
  repeat' first
    | with_reducible apply Calm.refl
    | exact fun _ => rfl
    | exact fun _ => ⟨rfl, rfl⟩
    | exact Eq.refl _
    | assumption
    | with_reducible apply Calm.trans (k := Calm.offerResume ..)
    | with_reducible apply Calm.trans (k := Calm.onBell _ ?_ )
    | split
    | intro _ _
    | intro _

theorem Calm.bellMainsBack (s : State) : Calm s (State.bellMainsBack s) := by
  unfold State.bellMainsBack
  try dsimp only
  repeat' first
    | with_reducible apply Calm.refl
    | exact fun _ => rfl
    | exact fun _ => ⟨rfl, rfl⟩
    | exact Eq.refl _
    | assumption
    | with_reducible apply Calm.each
    | with_reducible apply Calm.trans (k := Calm.offerResume ..)
    | split
    | intro _ _
    | intro _

theorem Calm.bellBoundary (c : CivilTime) (dateChange : Bool) (s : State) : Calm s (State.bellBoundary c dateChange s) := by
  unfold State.bellBoundary
  try dsimp only
  repeat' first
    | with_reducible apply Calm.refl
    | exact fun _ => rfl
    | exact fun _ => ⟨rfl, rfl⟩
    | exact Eq.refl _
    | assumption
    | with_reducible apply Calm.each
    | with_reducible apply Calm.trans (k := Calm.changeDate ..)
    | with_reducible apply Calm.trans (k := Calm.runWatermark ..)
    | split
    | intro _ _
    | intro _

theorem Calm.bellMove (m : TimeMove) (s : State) : Calm s (State.bellMove m s) := by
  unfold State.bellMove
  try dsimp only
  repeat' first
    | with_reducible apply Calm.refl
    | exact fun _ => rfl
    | exact fun _ => ⟨rfl, rfl⟩
    | exact Eq.refl _
    | assumption
    | with_reducible apply Calm.trans (k := Calm.bellBoundary ..)
    | split
    | intro _ _
    | intro _

theorem Calm.bellRunGroup (g : SchedId) (s : State) : Calm s (State.bellRunGroup g s) := by
  unfold State.bellRunGroup
  try dsimp only
  repeat' first
    | with_reducible apply Calm.refl
    | exact fun _ => rfl
    | exact fun _ => ⟨rfl, rfl⟩
    | exact Eq.refl _
    | assumption
    | with_reducible apply Calm.trans (k := Calm.onGroup ..)
    | with_reducible apply Calm.trans (k := Calm.runWatermark ..)
    | with_reducible apply Calm.trans (k := Calm.changeDate ..)
    | split
    | intro _ _
    | intro _

theorem Calm.bellRunning (s : State) : Calm s (State.bellRunning s) := by
  unfold State.bellRunning
  try dsimp only
  repeat' first
    | with_reducible apply Calm.refl
    | exact fun _ => rfl
    | exact fun _ => ⟨rfl, rfl⟩
    | exact Eq.refl _
    | assumption
    | with_reducible apply Calm.each
    | with_reducible apply Calm.trans (k := Calm.bellRunGroup ..)
    | split
    | intro _ _
    | intro _

/-! ### The Calendar Unit -/

theorem Calm.handSelections (s : State) : Calm s (State.handSelections s) := by
  unfold State.handSelections
  try dsimp only
  repeat' first
    | with_reducible apply Calm.refl
    | exact fun _ => rfl
    | exact fun _ => ⟨rfl, rfl⟩
    | exact Eq.refl _
    | assumption
    | with_reducible apply Calm.each
    | with_reducible apply Calm.trans (k := Calm.takeSelection ..)
    | split
    | intro _ _
    | intro _

theorem Calm.handDayQuiet (s : State) : Calm s (State.handDayQuiet s) := by
  unfold State.handDayQuiet
  try dsimp only
  repeat' first
    | with_reducible apply Calm.refl
    | exact fun _ => rfl
    | exact fun _ => ⟨rfl, rfl⟩
    | exact Eq.refl _
    | assumption
    | with_reducible apply Calm.trans (k := Calm.takeDayQuiet ..)
    | split
    | intro _ _
    | intro _

theorem Calm.calProgramsInstalled (s : State) : Calm s (State.calProgramsInstalled s) := by
  unfold State.calProgramsInstalled
  try dsimp only
  repeat' first
    | with_reducible apply Calm.refl
    | exact fun _ => rfl
    | exact fun _ => ⟨rfl, rfl⟩
    | exact Eq.refl _
    | assumption
    | with_reducible apply Calm.trans (k := Calm.handSelections ..)
    | split
    | intro _ _
    | intro _

/-! ### Buildings -/

theorem Calm.drawFree (s : State) : Calm s s.drawFree := Calm.onWork _ _

@[simp] theorem shown_length (bs : List Byte) : (shown bs).length = bs.length := by simp [shown]

@[simp] theorem unstated_length (n : Nat) : (unstated n).length = n := by simp [unstated]

theorem shownOr_length {α : Type} (n : Nat) (f : α → List Byte) (h : ∀ a, (f a).length = n) (o : Option α) :
    (shownOr n f o).length = n := by
  cases o <;> simp [shownOr, h]

theorem numbered_length {α : Type} (xs : List α) : ∀ k, (numbered k xs).length = xs.length := by
  induction xs with
  | nil => intro k; rfl
  | cons x xs ih => intro k; simp only [numbered, List.length_cons, ih]

theorem mirrorRecord_length (free base : Nat) (count : Word) (body : List Shown) :
    (mirrorRecord free base count body).length = body.length + 4 := by
  simp only [mirrorRecord, List.length_append, wordBytes_length, List.length_map, numbered_length]
  omega

theorem buildingBody_length (s : State) (b : BuildingId) : (s.buildingBody b).length = 12 := by
  simp only [State.buildingBody, List.length_append, shown_length, u8_length, leBytes_length, List.length_cons,
    List.length_nil, shownOr_length 1 (fun p : ProfileId => u8 p.val) (fun _ => rfl),
    shownOr_length 3 (fun t : TimerKind × Nat => leBytes 3 (t.2 - s.now)) (fun _ => leBytes_length _ _)]

theorem Calm.writeBuildingMirror (b : BuildingId) (s : State) : Calm s (s.writeBuildingMirror b) := by
  unfold State.writeBuildingMirror
  dsimp only
  refine Calm.trans (Calm.trans ?_ (Calm.onMem _ _ fun a h1 h2 h => ?_)) (Calm.drawFree _)
  case refine_2 =>
    have := b.isLt
    rw [mirrorRecord_length, buildingBody_length] at h2
    simp only [hostArea] at h
    omega
  exact (Reported.onRh _ rfl rfl rfl rfl rfl id).calm

theorem Calm.openRecord (b : BuildingId) (isAlarm : Bool) (profile : Option ProfileId) (evac : Option Stamp) (s : State) : Calm s (State.openRecord b isAlarm profile evac s) := by
  unfold State.openRecord
  try dsimp only
  repeat' first
    | with_reducible apply Calm.refl
    | exact fun _ => rfl
    | exact fun _ => ⟨rfl, rfl⟩
    | exact Eq.refl _
    | assumption
    | with_reducible apply Calm.trans (k := Calm.onBuilding ..)
    | with_reducible apply Calm.trans (k := Calm.onDrill _ ?_ )
    | split
    | intro _ _
    | intro _

theorem Calm.onOpenRecord (b : BuildingId) (f : LogRec → LogRec) (s : State) : Calm s (State.onOpenRecord b f s) := by
  unfold State.onOpenRecord
  try dsimp only
  repeat' first
    | with_reducible apply Calm.refl
    | exact fun _ => rfl
    | exact fun _ => ⟨rfl, rfl⟩
    | exact Eq.refl _
    | assumption
    | with_reducible apply Calm.trans (k := Calm.onDrill _ ?_ )
    | split
    | intro _ _
    | intro _

theorem Calm.closeRecord (b : BuildingId) (out : LogOutcome) (s : State) : Calm s (State.closeRecord b out s) := by
  unfold State.closeRecord
  try dsimp only
  repeat' first
    | with_reducible apply Calm.refl
    | exact fun _ => rfl
    | exact fun _ => ⟨rfl, rfl⟩
    | exact Eq.refl _
    | assumption
    | with_reducible apply Calm.trans (k := Calm.onOpenRecord ..)
    | with_reducible apply Calm.trans (k := Calm.onBuilding ..)
    | with_reducible apply Calm.trans (k := Calm.report ..)
    | split
    | intro _ _
    | intro _

theorem Calm.stampMuster (b : BuildingId) (s : State) : Calm s (State.stampMuster b s) := by
  unfold State.stampMuster
  try dsimp only
  repeat' first
    | with_reducible apply Calm.refl
    | exact fun _ => rfl
    | exact fun _ => ⟨rfl, rfl⟩
    | exact Eq.refl _
    | assumption
    | with_reducible apply Calm.trans (k := Calm.onOpenRecord ..)
    | split
    | intro _ _
    | intro _

theorem Calm.pushStandDown (b : BuildingId) (s : State) : Calm s (State.pushStandDown b s) := by
  unfold State.pushStandDown
  try dsimp only
  repeat' first
    | with_reducible apply Calm.refl
    | exact fun _ => rfl
    | exact fun _ => ⟨rfl, rfl⟩
    | exact Eq.refl _
    | assumption
    | with_reducible apply Calm.trans (k := Calm.onWork ..)
    | split
    | intro _ _
    | intro _

theorem Calm.takeAnswer (b : BuildingId) (answer : Option SessId) (s : State) : Calm s (State.takeAnswer b answer s) := by
  unfold State.takeAnswer
  try dsimp only
  repeat' first
    | with_reducible apply Calm.refl
    | exact fun _ => rfl
    | exact fun _ => ⟨rfl, rfl⟩
    | exact Eq.refl _
    | assumption
    | with_reducible apply Calm.trans (k := Calm.onBuilding ..)
    | with_reducible apply Calm.trans (k := Calm.pushStandDown ..)
    | split
    | intro _ _
    | intro _

theorem Calm.askSignal (b : BuildingId) (s : State) : Calm s (s.askSignal b) := by
  unfold State.askSignal
  split
  · exact Calm.refl s
  · exact (Calm.createSession _ _).trans (Calm.takeAnswer _ _ _)

theorem Calm.endSignal (b : BuildingId) (s : State) : Calm s (State.endSignal b s) := by
  unfold State.endSignal
  try dsimp only
  repeat' first
    | with_reducible apply Calm.refl
    | exact fun _ => rfl
    | exact fun _ => ⟨rfl, rfl⟩
    | exact Eq.refl _
    | assumption
    | with_reducible apply Calm.trans (k := Calm.endSession ..)
    | split
    | intro _ _
    | intro _

theorem Calm.announce (b : BuildingId) (st : BState) (s : State) : Calm s (State.announce b st s) := by
  unfold State.announce
  try dsimp only
  repeat' first
    | with_reducible apply Calm.refl
    | exact fun _ => rfl
    | exact fun _ => ⟨rfl, rfl⟩
    | exact Eq.refl _
    | assumption
    | with_reducible apply Calm.trans (k := Calm.takeBuildingState ..)
    | with_reducible apply Calm.trans (k := Calm.bellBuildingState ..)
    | split
    | intro _ _
    | intro _

/-- A transition is calm when what it does to the log is. -/
theorem Calm.transitionCore {s : State} (b : BuildingId) (m : Move) (h : ∀ t, Calm t (m.log t)) :
    Calm s (s.transitionCore b m) := by
  unfold State.transitionCore
  dsimp only
  refine Calm.trans ?_ (Calm.askSignal _ _)
  refine Calm.trans ?_ (Calm.onBuilding _ _ _)
  refine Calm.trans ?_ (Calm.writeBuildingMirror _ _)
  refine Calm.trans ?_ (Calm.report _ _)
  refine Calm.trans ?_ (Calm.announce _ _ _)
  refine Calm.trans ?_ (h _)
  exact ((Calm.endSignal _ _).trans (Calm.onBuilding _ _ _)).trans (Calm.onBuilding _ _ _)

theorem Calm.closeStandDown (b : BuildingId) (s : State) : Calm s (s.closeStandDown b) := by
  unfold State.closeStandDown
  dsimp only
  exact (Calm.closeRecord _ _ _).trans (Calm.onBuilding _ _ _)

theorem Calm.endStandDown (b : BuildingId) (s : State) : Calm s (s.endStandDown b) := by
  unfold State.endStandDown
  split
  · exact Calm.transitionCore _ _ fun t => Calm.closeStandDown b t
  · exact Calm.refl s

theorem Calm.drainStandDowns (k : Nat) : ∀ s : State, Calm s (s.drainStandDowns k) := by
  induction k with
  | zero => exact Calm.refl
  | succ k ih =>
    intro s
    unfold State.drainStandDowns
    split
    · exact Calm.refl s
    · exact ((Calm.onWork _ _).trans (Calm.endStandDown _ _)).trans (ih _)

theorem Calm.transition {s : State} (b : BuildingId) (m : Move) (h : ∀ t, Calm t (m.log t)) :
    Calm s (s.transition b m) := (Calm.transitionCore b m h).trans (Calm.drainStandDowns _ _)

theorem Calm.askAgain (b : BuildingId) (s : State) : Calm s (s.askAgain b) := by
  unfold State.askAgain
  split
  · exact Calm.askSignal _ _
  · exact Calm.refl s

theorem Calm.settleSignals (k : Nat) : ∀ s : State, Calm s (s.settleSignals k) := by
  induction k with
  | zero => exact Calm.refl
  | succ k ih =>
    intro s
    unfold State.settleSignals
    dsimp only
    split
    · refine Calm.trans ?_ (ih _)
      exact Calm.each _ _ ((Calm.drainStandDowns _ _).trans (Calm.onWork _ _)) Calm.askAgain
    · exact Calm.drainStandDowns _ _

/-- A look at the selections changes what was last seen of them and the mark of a change, and nothing else (R79). -/
theorem noteSelections_frame (s : State) : s.noteSelections =
    { s with router := { s.router with seen := s.noteSelections.router.seen, changed := s.noteSelections.router.changed } } := by
  unfold State.noteSelections
  split <;> rfl

/-- After it, what was last seen is what stands, and the mark stands where it differed (R79). -/
theorem noteSelections_spec (s : State) (h : s.up = true) : s.noteSelections.router.seen = s.selections ∧
    s.noteSelections.router.changed = (s.router.changed || decide (s.selections ≠ s.router.seen)) := by
  unfold State.noteSelections
  by_cases e : s.selections = s.router.seen
  · simp [h, e]
  · simp [h, e]

theorem Calm.noteSelections (s : State) : Calm s s.noteSelections := by
  unfold State.noteSelections
  split
  · exact Calm.onRouter _ rfl
  · exact Calm.refl s

theorem Calm.whole (s : State) : Calm s s.whole := (Calm.settleSignals _ _).trans (Calm.noteSelections _)

theorem Calm.closureLog (b : BuildingId) (s : State) : Calm s (s.closureLog b) := by
  unfold State.closureLog
  dsimp only
  split
  · split
    · exact Calm.onBuilding _ _ _
    · exact (((Calm.closeRecord _ _ _).trans (Calm.openRecord _ _ _ _ _)).trans (Calm.onBuilding _ _ _)).trans
        (Calm.onBuilding _ _ _)
  · exact ((Calm.openRecord _ _ _ _ _).trans (Calm.onBuilding _ _ _)).trans (Calm.onBuilding _ _ _)

theorem Calm.alertOne (b t : BuildingId) (s : State) : Calm s (s.alertOne b t) := by
  unfold State.alertOne
  dsimp only
  split
  · exact (Calm.onBuilding _ _ _).trans (Calm.transition _ _ fun t => Calm.refl t)
  · exact Calm.onBuilding _ _ _

theorem Calm.spreadAlarm (b : BuildingId) (s : State) : Calm s (s.spreadAlarm b) :=
  Calm.each _ _ (Calm.refl s) fun t u => Calm.alertOne b t u

theorem Calm.closure (b : BuildingId) (s : State) : Calm s (s.closure b) := by
  unfold State.closure
  split
  · exact Calm.refl s
  · exact (Calm.transition _ _ fun t => Calm.closureLog b t).trans (Calm.spreadAlarm _ _)

theorem Calm.unalertOne (b t : BuildingId) (s : State) : Calm s (s.unalertOne b t) := by
  unfold State.unalertOne
  dsimp only
  split
  · exact (Calm.onBuilding _ _ _).trans (Calm.transition _ _ fun t => Calm.refl t)
  · exact Calm.onBuilding _ _ _

theorem Calm.unalert (b : BuildingId) (s : State) : Calm s (s.unalert b) :=
  Calm.each _ _ (Calm.refl s) fun t u => Calm.unalertOne b t u

theorem Calm.hushOne (b : BuildingId) (s : State) : Calm s (s.hushOne b).1 := by
  unfold State.hushOne
  split
  · exact (Calm.transition _ _ fun t => Calm.refl t).trans (Calm.unalert _ _)
  · exact Calm.refl s

theorem Calm.standDownTo {s : State} (b : BuildingId) (c : BuildingCause) : Calm s (s.transition b (standDownTo c)) :=
  Calm.transition _ _ fun t => Calm.refl t

theorem Calm.allClearOne (b : BuildingId) (s : State) : Calm s (s.allClearOne b).1 := by
  unfold State.allClearOne
  split
  · split
    · exact Calm.refl s
    · exact (Calm.standDownTo _ _).trans (Calm.unalert _ _)
  · split
    · exact Calm.refl s
    · exact Calm.standDownTo _ _
  · exact Calm.standDownTo _ _
  · exact Calm.refl s

theorem Calm.stampEvacStart (b : BuildingId) (s : State) : Calm s (State.stampEvacStart b s) := by
  unfold State.stampEvacStart
  try dsimp only
  repeat' first
    | with_reducible apply Calm.refl
    | exact fun _ => rfl
    | exact fun _ => ⟨rfl, rfl⟩
    | exact Eq.refl _
    | assumption
    | with_reducible apply Calm.trans (k := Calm.onOpenRecord ..)
    | with_reducible apply Calm.trans (k := Calm.onBuilding ..)
    | split
    | intro _ _
    | intro _

theorem Calm.openDrill (b : BuildingId) (n : ProfileId) (s : State) : Calm s (State.openDrill b n s) := by
  unfold State.openDrill
  try dsimp only
  repeat' first
    | with_reducible apply Calm.refl
    | exact fun _ => rfl
    | exact fun _ => ⟨rfl, rfl⟩
    | exact Eq.refl _
    | assumption
    | with_reducible apply Calm.trans (k := Calm.openRecord ..)
    | with_reducible apply Calm.trans (k := Calm.onBuilding ..)
    | split
    | intro _ _
    | intro _

theorem Calm.startDrill (n : ProfileId) (p : Profile) (b : BuildingId) (s : State) : Calm s (s.startDrill n p b) := by
  unfold State.startDrill
  split
  · exact Calm.transition _ _ fun t => (Calm.openDrill b n t).trans (Calm.stampEvacStart b _)
  · exact Calm.transition _ _ fun t => Calm.openDrill b n t

theorem Calm.drillStartOne (n : ProfileId) (p : Profile) (b : BuildingId) (s : State) :
    Calm s (s.drillStartOne n p b).1 := by
  unfold State.drillStartOne
  split <;> first | exact Calm.refl s | exact Calm.startDrill _ _ _ _

theorem Calm.drillAbortOne (b : BuildingId) (s : State) : Calm s (s.drillAbortOne b).1 := by
  unfold State.drillAbortOne
  dsimp only
  split
  all_goals first
    | exact Calm.refl s
    | (refine Calm.transition _ _ fun t => ?_; dsimp only; exact Calm.onBuilding _ _ _)

theorem Calm.eachNamed (f : BuildingId → State → State × Code) (h : ∀ b t, Calm t (f b t).1)
    (bs : List BuildingId) : ∀ s : State, Calm s (s.eachNamed f bs).1 := by
  induction bs with
  | nil => exact Calm.refl
  | cons b bs ih => exact fun s => (h b s).trans (ih _)

theorem Calm.takeBuildings {s : State} (f : BuildingId → State → State × Code) (mask : Nat)
    (h : ∀ b t, Calm t (f b t).1) : Calm s (s.takeBuildings f mask).1 := by
  unfold State.takeBuildings
  split
  · exact Calm.refl s
  · exact Calm.eachNamed f h _ s

theorem Calm.takeDrillStart (mask profile : Nat) (s : State) : Calm s (s.takeDrillStart mask profile).1 := by
  unfold State.takeDrillStart
  split
  · split
    · exact Calm.refl s
    · exact Calm.eachNamed _ (Calm.drillStartOne _ _) _ s
  · exact Calm.refl s

theorem Calm.prealertExpire (b : BuildingId) (s : State) : Calm s (s.prealertExpire b) := by
  unfold State.prealertExpire
  split
  · exact (Calm.transition b _ fun t => Calm.stampEvacStart b t).trans (Calm.whole _)
  · exact Calm.refl s

theorem Calm.limitExpire (b : BuildingId) (s : State) : Calm s (s.limitExpire b) := by
  unfold State.limitExpire
  split
  · refine Calm.trans (Calm.transition b _ fun t => ?_) (Calm.whole _)
    dsimp only
    exact Calm.onBuilding _ _ _
  · exact Calm.refl s

theorem Calm.autoExpire (b : BuildingId) (s : State) : Calm s (s.autoExpire b) := by
  unfold State.autoExpire
  split
  · exact (Calm.standDownTo b _).trans (Calm.whole _)
  · exact Calm.refl s

theorem Calm.musterActs (b : BuildingId) (s : State) : Calm s (s.musterActs b) := by
  unfold State.musterActs
  dsimp only
  split
  · refine Calm.trans (Calm.transition _ _ fun t => ?_) (Calm.whole _)
    dsimp only
    exact (Calm.stampMuster b t).trans (Calm.onBuilding _ _ _)
  all_goals
    repeat' split
    all_goals first | exact Calm.refl s | exact Calm.stampMuster _ _

theorem Calm.toggleContact (b : BuildingId) (s : State) : Calm s (State.toggleContact b s) := by
  unfold State.toggleContact
  try dsimp only
  repeat' first
    | with_reducible apply Calm.refl
    | exact fun _ => rfl
    | exact fun _ => ⟨rfl, rfl⟩
    | exact Eq.refl _
    | assumption
    | with_reducible apply Calm.trans (k := Calm.onBuilding ..)
    | split
    | intro _ _
    | intro _

theorem Calm.contactCloses (b : BuildingId) (s : State) : Calm s (State.contactCloses b s) := by
  unfold State.contactCloses
  try dsimp only
  repeat' first
    | with_reducible apply Calm.refl
    | exact fun _ => rfl
    | exact fun _ => ⟨rfl, rfl⟩
    | exact Eq.refl _
    | assumption
    | with_reducible apply Calm.trans (k := Calm.toggleContact ..)
    | with_reducible apply Calm.trans (k := Calm.closure ..)
    | with_reducible apply Calm.trans (k := Calm.whole ..)
    | split
    | intro _ _
    | intro _

theorem Calm.contactOpens (b : BuildingId) (s : State) : Calm s (State.contactOpens b s) := by
  unfold State.contactOpens
  try dsimp only
  repeat' first
    | with_reducible apply Calm.refl
    | exact fun _ => rfl
    | exact fun _ => ⟨rfl, rfl⟩
    | exact Eq.refl _
    | assumption
    | with_reducible apply Calm.trans (k := Calm.toggleContact ..)
    | split
    | intro _ _
    | intro _

theorem Calm.toggleMuster (b : BuildingId) (s : State) : Calm s (State.toggleMuster b s) := by
  unfold State.toggleMuster
  try dsimp only
  repeat' first
    | with_reducible apply Calm.refl
    | exact fun _ => rfl
    | exact fun _ => ⟨rfl, rfl⟩
    | exact Eq.refl _
    | assumption
    | with_reducible apply Calm.trans (k := Calm.onBuilding ..)
    | split
    | intro _ _
    | intro _

theorem Calm.musterPresses (b : BuildingId) (s : State) : Calm s (State.musterPresses b s) := by
  unfold State.musterPresses
  try dsimp only
  repeat' first
    | with_reducible apply Calm.refl
    | exact fun _ => rfl
    | exact fun _ => ⟨rfl, rfl⟩
    | exact Eq.refl _
    | assumption
    | with_reducible apply Calm.trans (k := Calm.toggleMuster ..)
    | with_reducible apply Calm.trans (k := Calm.musterActs ..)
    | with_reducible apply Calm.trans (k := Calm.whole ..)
    | split
    | intro _ _
    | intro _

theorem Calm.musterReleases (b : BuildingId) (s : State) : Calm s (State.musterReleases b s) := by
  unfold State.musterReleases
  try dsimp only
  repeat' first
    | with_reducible apply Calm.refl
    | exact fun _ => rfl
    | exact fun _ => ⟨rfl, rfl⟩
    | exact Eq.refl _
    | assumption
    | with_reducible apply Calm.trans (k := Calm.toggleMuster ..)
    | split
    | intro _ _
    | intro _

theorem Calm.closePowerLost (s : State) : Calm s (State.closePowerLost s) := by
  unfold State.closePowerLost
  try dsimp only
  repeat' first
    | with_reducible apply Calm.refl
    | exact fun _ => rfl
    | exact fun _ => ⟨rfl, rfl⟩
    | exact Eq.refl _
    | assumption
    | with_reducible apply Calm.each
    | with_reducible apply Calm.trans (k := Calm.report ..)
    | with_reducible apply Calm.trans (k := Calm.onDrill _ ?_ )
    | split
    | intro _ _
    | intro _

theorem Calm.announceQuiet (b : BuildingId) (s : State) : Calm s (State.announceQuiet b s) := by
  unfold State.announceQuiet
  try dsimp only
  repeat' first
    | with_reducible apply Calm.refl
    | exact fun _ => rfl
    | exact fun _ => ⟨rfl, rfl⟩
    | exact Eq.refl _
    | assumption
    | with_reducible apply Calm.trans (k := Calm.takeBuildingState ..)
    | with_reducible apply Calm.trans (k := Calm.onBell _ ?_ )
    | split
    | intro _ _
    | intro _

theorem Calm.drillRunning (s : State) : Calm s s.drillRunning := by
  unfold State.drillRunning
  dsimp only
  exact Calm.each _ _ (Calm.each _ _ (Calm.closePowerLost s) Calm.announceQuiet) Calm.closure

/-! ### Session events -/

theorem Calm.deferExpire (n : SessId) (s : State) : Calm s (State.deferExpire n s) := by
  unfold State.deferExpire
  try dsimp only
  repeat' first
    | with_reducible apply Calm.refl
    | exact fun _ => rfl
    | exact fun _ => ⟨rfl, rfl⟩
    | exact Eq.refl _
    | assumption
    | with_reducible apply Calm.each
    | with_reducible apply Calm.trans (k := Calm.judge ..)
    | with_reducible apply Calm.trans (k := Calm.settle ..)
    | with_reducible apply Calm.trans (k := Calm.whole ..)
    | split
    | intro _ _
    | intro _

theorem Calm.durationEnd (n : SessId) (s : State) : Calm s (State.durationEnd n s) := by
  unfold State.durationEnd
  try dsimp only
  repeat' first
    | with_reducible apply Calm.refl
    | exact fun _ => rfl
    | exact fun _ => ⟨rfl, rfl⟩
    | exact Eq.refl _
    | assumption
    | with_reducible apply Calm.trans (k := Calm.endSession ..)
    | with_reducible apply Calm.trans (k := Calm.whole ..)
    | split
    | intro _ _
    | intro _

theorem Calm.pauseAbandon (n : SessId) (s : State) : Calm s (State.pauseAbandon n s) := by
  unfold State.pauseAbandon
  try dsimp only
  repeat' first
    | with_reducible apply Calm.refl
    | exact fun _ => rfl
    | exact fun _ => ⟨rfl, rfl⟩
    | exact Eq.refl _
    | assumption
    | with_reducible apply Calm.trans (k := Calm.endSession ..)
    | with_reducible apply Calm.trans (k := Calm.whole ..)
    | split
    | intro _ _
    | intro _

theorem Calm.giveUp (n : SessId) (s : State) : Calm s (State.giveUp n s) := by
  unfold State.giveUp
  try dsimp only
  repeat' first
    | with_reducible apply Calm.refl
    | exact fun _ => rfl
    | exact fun _ => ⟨rfl, rfl⟩
    | exact Eq.refl _
    | assumption
    | with_reducible apply Calm.trans (k := Calm.endSession ..)
    | with_reducible apply Calm.trans (k := Calm.whole ..)
    | split
    | intro _ _
    | intro _

theorem Calm.playingRise (p : PlayerId) (s : State) : Calm s (State.playingRise p s) := by
  unfold State.playingRise
  try dsimp only
  repeat' first
    | with_reducible apply Calm.refl
    | exact fun _ => rfl
    | exact fun _ => ⟨rfl, rfl⟩
    | exact Eq.refl _
    | assumption
    | with_reducible apply Calm.trans (k := Calm.onPlayer ..)
    | split
    | intro _ _
    | intro _

theorem Calm.playingFall (p : PlayerId) (s : State) : Calm s (State.playingFall p s) := by
  unfold State.playingFall
  try dsimp only
  repeat' first
    | with_reducible apply Calm.refl
    | exact fun _ => rfl
    | exact fun _ => ⟨rfl, rfl⟩
    | exact Eq.refl _
    | assumption
    | with_reducible apply Calm.trans (k := Calm.onPlayer ..)
    | with_reducible apply Calm.trans (k := Calm.endSession ..)
    | with_reducible apply Calm.trans (k := Calm.whole ..)
    | split
    | intro _ _
    | intro _

theorem Calm.cueTimeout (p : PlayerId) (s : State) : Calm s (State.cueTimeout p s) := by
  unfold State.cueTimeout
  try dsimp only
  repeat' first
    | with_reducible apply Calm.refl
    | exact fun _ => rfl
    | exact fun _ => ⟨rfl, rfl⟩
    | exact Eq.refl _
    | assumption
    | with_reducible apply Calm.trans (k := Calm.endSession ..)
    | with_reducible apply Calm.trans (k := Calm.whole ..)
    | split
    | intro _ _
    | intro _

theorem Calm.announceWith (a : SessionAsk) (clamped : Bool) (s : State) : Calm s (s.announceWith a clamped).1 := by
  unfold State.announceWith
  have h := Calm.createSession a s
  split <;> rename_i hx <;> rw [hx] at h <;> exact h

theorem Calm.takeAnnounce (cell : CellId) (tag : Word) (p : AnnounceParams) (s : State) :
    Calm s (s.takeAnnounce cell tag p).1 := by
  unfold State.takeAnnounce
  dsimp only
  repeat' split
  all_goals first | exact Calm.refl s | exact Calm.announceWith _ _ _

theorem Calm.takeCancel (mode number : Nat) (tag : Word) (s : State) : Calm s (s.takeCancel mode number tag).1 := by
  unfold State.takeCancel State.cancelNumber State.cancelTag
  dsimp only
  repeat' split
  all_goals first | exact Calm.refl s | exact Calm.endSession _ _ _ | exact Calm.endSessions _ _ _

theorem Calm.phaseEnd (g : GenId) (s : State) : Calm s (State.phaseEnd g s) := by
  unfold State.phaseEnd
  try dsimp only
  repeat' first
    | with_reducible apply Calm.refl
    | exact fun _ => rfl
    | exact fun _ => ⟨rfl, rfl⟩
    | exact Eq.refl _
    | assumption
    | with_reducible apply Calm.trans (k := Calm.onGen ..)
    | split
    | intro _ _
    | intro _

theorem Calm.toneTick (s : State) : Calm s (State.toneTick s) := by
  unfold State.toneTick
  try dsimp only
  repeat' first
    | with_reducible apply Calm.refl
    | exact fun _ => rfl
    | exact fun _ => ⟨rfl, rfl⟩
    | exact Eq.refl _
    | assumption
    | with_reducible apply Calm.each
    | with_reducible apply Calm.trans (k := Calm.onGen ..)
    | split
    | intro _ _
    | intro _

theorem Calm.crosspoint (s : State) : Calm s (State.crosspoint s) := by
  unfold State.crosspoint
  split
  · split
    · exact Calm.onRouter _ rfl
    · exact Calm.refl s
  · exact Calm.refl s

theorem Calm.sessionsReserve (s : State) : Calm s (State.sessionsReserve s) := by
  unfold State.sessionsReserve
  try dsimp only
  repeat' first
    | with_reducible apply Calm.refl
    | exact fun _ => rfl
    | exact fun _ => ⟨rfl, rfl⟩
    | exact Eq.refl _
    | assumption
    | with_reducible apply Calm.trans (k := Calm.endSessions ..)
    | split
    | intro _ _
    | intro _

theorem Calm.sessionsRetained (s : State) : Calm s (State.sessionsRetained s) := by
  unfold State.sessionsRetained
  try dsimp only
  repeat' first
    | with_reducible apply Calm.refl
    | exact fun _ => rfl
    | exact fun _ => ⟨rfl, rfl⟩
    | exact Eq.refl _
    | assumption
    | with_reducible apply Calm.trans (k := Calm.endSessions ..)
    | with_reducible apply Calm.trans (k := Calm.onRouter _ ?_ )
    | split
    | intro _ _
    | intro _

end Sys2Proof.Machine
end

