-- ==== Sys2Proof/Laws/OnLines.lean ====
section
/-! SUPPORT. The operations of the Clock Line Driver change only the lines, the Scanner and the reports, and keep the grants within K: what each can do to the rest of the state is what OnLines says. -/

namespace Sys2Proof.Machine

/-! ### Updates -/

theorem OnLines.onScan (f : Scanner → Scanner) (s : State) : OnLines s (s.onScan f) := { OnLines.refl s with same := rfl }

theorem OnLines.onClock (l : LineId) (f : Line → Line) (s : State) : OnLines s (s.onClock l f) :=
  { OnLines.refl s with same := rfl }

theorem OnLines.onLine {s : State} (f : LineDrv → LineDrv) (h : s.line.withinBudget → (f s.line).withinBudget) :
    OnLines s (s.onLine f) := { OnLines.refl s with same := rfl, grants := h }

theorem OnLines.setLineClass (l : LineId) (c : ChanClass) (s : State) : OnLines s (s.setLineClass l c) := by
  unfold State.setLineClass State.onChannel
  exact OnLines.onScan _ _

theorem insertNum_length {n : Nat} (x : Fin n) (xs : List (Fin n)) : (insertNum x xs).length ≤ xs.length + 1 := by
  induction xs with
  | nil => simp [insertNum]
  | cons y ys ih =>
    unfold insertNum
    split
    · simp
    · split
      · simp
      · simp only [List.length_cons]; omega

/-- A grant given while fewer than K stand. -/
theorem withinBudget_insert {d : LineDrv} (l : LineId) (w : List LineId) (h : d.grants.length < d.budget) :
    LineDrv.withinBudget { d with waiting := w, grants := insertNum l d.grants } := by
  have := insertNum_length l d.grants
  show (insertNum l d.grants).length ≤ d.budget
  omega

/-! ### States and the arbiter -/

theorem OnLines.setLineState (l : LineId) (new : LineState) (cause : LineCause) (s : State) : OnLines s (State.setLineState l new cause s) := by
  unfold State.setLineState
  try dsimp only
  repeat' first
    | with_reducible apply OnLines.refl
    | exact fun _ => rfl
    | exact fun _ => ⟨rfl, rfl⟩
    | exact Eq.refl _
    | assumption
    | with_reducible apply OnLines.trans (k := OnLines.onClock ..)
    | with_reducible apply OnLines.trans (k := OnLines.report ..)
    | split
    | intro _ _
    | intro _

theorem OnLines.enterAdvancing (l : LineId) (cause : LineCause) (s : State) : OnLines s (State.enterAdvancing l cause s) := by
  unfold State.enterAdvancing
  try dsimp only
  repeat' first
    | with_reducible apply OnLines.refl
    | exact fun _ => rfl
    | exact fun _ => ⟨rfl, rfl⟩
    | exact Eq.refl _
    | assumption
    | with_reducible apply OnLines.trans (k := OnLines.setLineState ..)
    | with_reducible apply OnLines.trans (k := OnLines.onClock ..)
    | split
    | intro _ _
    | intro _

theorem OnLines.passGrants (k : Nat) : ∀ s : State, OnLines s (s.passGrants k) := by
  induction k with
  | zero => exact OnLines.refl
  | succ k ih =>
    intro s
    unfold State.passGrants
    split
    · exact OnLines.refl s
    · split
      · rename_i h
        exact ((OnLines.onLine _ fun _ => withinBudget_insert _ _ h).trans (OnLines.enterAdvancing _ _ _)).trans (ih _)
      · exact OnLines.refl s

theorem OnLines.leaveArbiter (l : LineId) (s : State) : OnLines s (s.leaveArbiter l) := by
  unfold State.leaveArbiter
  refine (OnLines.onLine _ fun h => ?_).trans (OnLines.passGrants _ _)
  exact Nat.le_trans (List.length_filter_le _ _) h

theorem OnLines.askGrant (l : LineId) (s : State) : OnLines s (s.askGrant l) := by
  unfold State.askGrant
  split
  · rename_i h
    exact (OnLines.onLine _ fun _ => withinBudget_insert _ s.line.waiting h).trans (OnLines.enterAdvancing _ _ _)
  · exact (OnLines.onLine _ fun h => h).trans (OnLines.setLineState _ _ _ _)

theorem OnLines.leaveCatchUp (l : LineId) (new : LineState) (cause : LineCause) (s : State) : OnLines s (State.leaveCatchUp l new cause s) := by
  unfold State.leaveCatchUp
  try dsimp only
  repeat' first
    | with_reducible apply OnLines.refl
    | exact fun _ => rfl
    | exact fun _ => ⟨rfl, rfl⟩
    | exact Eq.refl _
    | assumption
    | with_reducible apply OnLines.trans (k := OnLines.setLineState ..)
    | with_reducible apply OnLines.trans (k := OnLines.onClock ..)
    | with_reducible apply OnLines.trans (k := OnLines.leaveArbiter ..)
    | split
    | intro _ _
    | intro _

theorem OnLines.applyVerdict (l : LineId) (v : Verdict) (s : State) : OnLines s (State.applyVerdict l v s) := by
  unfold State.applyVerdict
  try dsimp only
  repeat' first
    | with_reducible apply OnLines.refl
    | exact fun _ => rfl
    | exact fun _ => ⟨rfl, rfl⟩
    | exact Eq.refl _
    | assumption
    | with_reducible apply OnLines.trans (k := OnLines.askGrant ..)
    | with_reducible apply OnLines.trans (k := OnLines.setLineState ..)
    | with_reducible apply OnLines.trans (k := OnLines.leaveCatchUp ..)
    | split
    | intro _ _
    | intro _

theorem OnLines.decideLine (l : LineId) (s : State) : OnLines s (State.decideLine l s) := by
  unfold State.decideLine
  try dsimp only
  repeat' first
    | with_reducible apply OnLines.refl
    | exact fun _ => rfl
    | exact fun _ => ⟨rfl, rfl⟩
    | exact Eq.refl _
    | assumption
    | with_reducible apply OnLines.trans (k := OnLines.onClock ..)
    | with_reducible apply OnLines.trans (k := OnLines.report ..)
    | with_reducible apply OnLines.trans (k := OnLines.applyVerdict ..)
    | split
    | intro _ _
    | intro _

theorem OnLines.triggerLine (l : LineId) (s : State) : OnLines s (State.triggerLine l s) := by
  unfold State.triggerLine
  try dsimp only
  repeat' first
    | with_reducible apply OnLines.refl
    | exact fun _ => rfl
    | exact fun _ => ⟨rfl, rfl⟩
    | exact Eq.refl _
    | assumption
    | with_reducible apply OnLines.trans (k := OnLines.onClock ..)
    | with_reducible apply OnLines.trans (k := OnLines.decideLine ..)
    | split
    | intro _ _
    | intro _

theorem OnLines.startImpulse (l : LineId) (kind : ImpulseKind) (s : State) : OnLines s (State.startImpulse l kind s) := by
  unfold State.startImpulse
  try dsimp only
  repeat' first
    | with_reducible apply OnLines.refl
    | exact fun _ => rfl
    | exact fun _ => ⟨rfl, rfl⟩
    | exact Eq.refl _
    | assumption
    | with_reducible apply OnLines.trans (k := OnLines.onClock ..)
    | split
    | intro _ _
    | intro _

theorem OnLines.askSelect (l : LineId) (s : State) : OnLines s (State.askSelect l s) := by
  unfold State.askSelect
  try dsimp only
  repeat' first
    | with_reducible apply OnLines.refl
    | exact fun _ => rfl
    | exact fun _ => ⟨rfl, rfl⟩
    | exact Eq.refl _
    | assumption
    | with_reducible apply OnLines.trans (k := OnLines.onClock ..)
    | with_reducible apply OnLines.trans (k := OnLines.onScan ..)
    | split
    | intro _ _
    | intro _

theorem OnLines.startFrame (l : LineId) (kind : ImpulseKind) (s : State) : OnLines s (State.startFrame l kind s) := by
  unfold State.startFrame
  try dsimp only
  repeat' first
    | with_reducible apply OnLines.refl
    | exact fun _ => rfl
    | exact fun _ => ⟨rfl, rfl⟩
    | exact Eq.refl _
    | assumption
    | with_reducible apply OnLines.trans (k := OnLines.onClock ..)
    | with_reducible apply OnLines.trans (k := OnLines.askSelect ..)
    | split
    | intro _ _
    | intro _

theorem OnLines.startProbe (l : LineId) (s : State) : OnLines s (State.startProbe l s) := by
  unfold State.startProbe
  try dsimp only
  repeat' first
    | with_reducible apply OnLines.refl
    | exact fun _ => rfl
    | exact fun _ => ⟨rfl, rfl⟩
    | exact Eq.refl _
    | assumption
    | with_reducible apply OnLines.trans (k := OnLines.onClock ..)
    | with_reducible apply OnLines.trans (k := OnLines.startFrame ..)
    | with_reducible apply OnLines.trans (k := OnLines.startImpulse ..)
    | split
    | intro _ _
    | intro _

theorem OnLines.codedFrame (l : LineId) (s : State) : OnLines s (State.codedFrame l s) := by
  unfold State.codedFrame
  try dsimp only
  repeat' first
    | with_reducible apply OnLines.refl
    | exact fun _ => rfl
    | exact fun _ => ⟨rfl, rfl⟩
    | exact Eq.refl _
    | assumption
    | with_reducible apply OnLines.trans (k := OnLines.onClock ..)
    | with_reducible apply OnLines.trans (k := OnLines.startFrame ..)
    | split
    | intro _ _
    | intro _

theorem OnLines.clearInflight (l : LineId) (s : State) : OnLines s (State.clearInflight l s) := by
  unfold State.clearInflight
  try dsimp only
  repeat' first
    | with_reducible apply OnLines.refl
    | exact fun _ => rfl
    | exact fun _ => ⟨rfl, rfl⟩
    | exact Eq.refl _
    | assumption
    | with_reducible apply OnLines.trans (k := OnLines.onClock ..)
    | with_reducible apply OnLines.trans (k := OnLines.onScan ..)
    | split
    | intro _ _
    | intro _

theorem OnLines.applyDelivery (l : LineId) (imp : Impulse) (s : State) : OnLines s (State.applyDelivery l imp s) := by
  unfold State.applyDelivery
  try dsimp only
  repeat' first
    | with_reducible apply OnLines.refl
    | exact fun _ => rfl
    | exact fun _ => ⟨rfl, rfl⟩
    | exact Eq.refl _
    | assumption
    | with_reducible apply OnLines.trans (k := OnLines.onClock ..)
    | with_reducible apply OnLines.trans (k := OnLines.setLineClass ..)
    | split
    | intro _ _
    | intro _

theorem OnLines.faultLine (l : LineId) (s : State) : OnLines s (State.faultLine l s) := by
  unfold State.faultLine
  try dsimp only
  repeat' first
    | with_reducible apply OnLines.refl
    | exact fun _ => rfl
    | exact fun _ => ⟨rfl, rfl⟩
    | exact Eq.refl _
    | assumption
    | with_reducible apply OnLines.trans (k := OnLines.setLineState ..)
    | with_reducible apply OnLines.trans (k := OnLines.onClock ..)
    | with_reducible apply OnLines.trans (k := OnLines.leaveArbiter ..)
    | split
    | intro _ _
    | intro _

theorem OnLines.probeEnded (l : LineId) (delivered : Bool) (s : State) : OnLines s (State.probeEnded l delivered s) := by
  unfold State.probeEnded
  try dsimp only
  repeat' first
    | with_reducible apply OnLines.refl
    | exact fun _ => rfl
    | exact fun _ => ⟨rfl, rfl⟩
    | exact Eq.refl _
    | assumption
    | with_reducible apply OnLines.trans (k := OnLines.onClock ..)
    | with_reducible apply OnLines.trans (k := OnLines.setLineState ..)
    | with_reducible apply OnLines.trans (k := OnLines.triggerLine ..)
    | split
    | intro _ _
    | intro _

theorem OnLines.caughtUp (l : LineId) (s : State) : OnLines s (State.caughtUp l s) := by
  unfold State.caughtUp
  try dsimp only
  repeat' first
    | with_reducible apply OnLines.refl
    | exact fun _ => rfl
    | exact fun _ => ⟨rfl, rfl⟩
    | exact Eq.refl _
    | assumption
    | with_reducible apply OnLines.trans (k := OnLines.leaveCatchUp ..)
    | split
    | intro _ _
    | intro _

theorem OnLines.afterVerdict (l : LineId) (s : State) : OnLines s (State.afterVerdict l s) := by
  unfold State.afterVerdict
  try dsimp only
  repeat' first
    | with_reducible apply OnLines.refl
    | exact fun _ => rfl
    | exact fun _ => ⟨rfl, rfl⟩
    | exact Eq.refl _
    | assumption
    | with_reducible apply OnLines.trans (k := OnLines.triggerLine ..)
    | with_reducible apply OnLines.trans (k := OnLines.caughtUp ..)
    | with_reducible apply OnLines.trans (k := OnLines.onClock ..)
    | split
    | intro _ _
    | intro _

theorem OnLines.armFast (l : LineId) (s : State) : OnLines s (State.armFast l s) := by
  unfold State.armFast
  try dsimp only
  repeat' first
    | with_reducible apply OnLines.refl
    | exact fun _ => rfl
    | exact fun _ => ⟨rfl, rfl⟩
    | exact Eq.refl _
    | assumption
    | with_reducible apply OnLines.trans (k := OnLines.onClock ..)
    | split
    | intro _ _
    | intro _

theorem OnLines.endImpulse (l : LineId) (s : State) : OnLines s (State.endImpulse l s) := by
  unfold State.endImpulse
  try dsimp only
  repeat' first
    | with_reducible apply OnLines.refl
    | exact fun _ => rfl
    | exact fun _ => ⟨rfl, rfl⟩
    | exact Eq.refl _
    | assumption
    | with_reducible apply OnLines.trans (k := OnLines.clearInflight ..)
    | with_reducible apply OnLines.trans (k := OnLines.applyDelivery ..)
    | with_reducible apply OnLines.trans (k := OnLines.probeEnded ..)
    | with_reducible apply OnLines.trans (k := OnLines.faultLine ..)
    | with_reducible apply OnLines.trans (k := OnLines.onClock ..)
    | with_reducible apply OnLines.trans (k := OnLines.codedFrame ..)
    | with_reducible apply OnLines.trans (k := OnLines.triggerLine ..)
    | with_reducible apply OnLines.trans (k := OnLines.armFast ..)
    | with_reducible apply OnLines.trans (k := OnLines.afterVerdict ..)
    | split
    | intro _ _
    | intro _

theorem OnLines.takeResult (l : LineId) (c : ChanClass) (s : State) : OnLines s (State.takeResult l c s) := by
  unfold State.takeResult
  try dsimp only
  repeat' first
    | with_reducible apply OnLines.refl
    | exact fun _ => rfl
    | exact fun _ => ⟨rfl, rfl⟩
    | exact Eq.refl _
    | assumption
    | with_reducible apply OnLines.trans (k := OnLines.onClock ..)
    | with_reducible apply OnLines.trans (k := OnLines.endImpulse ..)
    | split
    | intro _ _
    | intro _

theorem OnLines.impulseEnd (l : LineId) (s : State) : OnLines s (State.impulseEnd l s) := by
  unfold State.impulseEnd
  try dsimp only
  repeat' first
    | with_reducible apply OnLines.refl
    | exact fun _ => rfl
    | exact fun _ => ⟨rfl, rfl⟩
    | exact Eq.refl _
    | assumption
    | with_reducible apply OnLines.trans (k := OnLines.endImpulse ..)
    | split
    | intro _ _
    | intro _

theorem OnLines.frameEnd (l : LineId) (s : State) : OnLines s (State.frameEnd l s) := by
  unfold State.frameEnd
  try dsimp only
  repeat' first
    | with_reducible apply OnLines.refl
    | exact fun _ => rfl
    | exact fun _ => ⟨rfl, rfl⟩
    | exact Eq.refl _
    | assumption
    | with_reducible apply OnLines.trans (k := OnLines.endImpulse ..)
    | split
    | intro _ _
    | intro _

theorem OnLines.frameOverdue (l : LineId) (s : State) : OnLines s (State.frameOverdue l s) := by
  unfold State.frameOverdue
  try dsimp only
  repeat' first
    | with_reducible apply OnLines.refl
    | exact fun _ => rfl
    | exact fun _ => ⟨rfl, rfl⟩
    | exact Eq.refl _
    | assumption
    | with_reducible apply OnLines.trans (k := OnLines.frameEnd ..)
    | split
    | intro _ _
    | intro _

theorem OnLines.fastImpulse (l : LineId) (s : State) : OnLines s (State.fastImpulse l s) := by
  unfold State.fastImpulse
  try dsimp only
  repeat' first
    | with_reducible apply OnLines.refl
    | exact fun _ => rfl
    | exact fun _ => ⟨rfl, rfl⟩
    | exact Eq.refl _
    | assumption
    | with_reducible apply OnLines.trans (k := OnLines.onClock ..)
    | with_reducible apply OnLines.trans (k := OnLines.startImpulse ..)
    | split
    | intro _ _
    | intro _

theorem OnLines.probeTimerExpire (l : LineId) (s : State) : OnLines s (State.probeTimerExpire l s) := by
  unfold State.probeTimerExpire
  try dsimp only
  repeat' first
    | with_reducible apply OnLines.refl
    | exact fun _ => rfl
    | exact fun _ => ⟨rfl, rfl⟩
    | exact Eq.refl _
    | assumption
    | with_reducible apply OnLines.trans (k := OnLines.startProbe ..)
    | with_reducible apply OnLines.trans (k := OnLines.onClock ..)
    | split
    | intro _ _
    | intro _

theorem OnLines.askedProbe (l : LineId) (s : State) : OnLines s (State.askedProbe l s) := by
  unfold State.askedProbe
  try dsimp only
  repeat' first
    | with_reducible apply OnLines.refl
    | exact fun _ => rfl
    | exact fun _ => ⟨rfl, rfl⟩
    | exact Eq.refl _
    | assumption
    | with_reducible apply OnLines.trans (k := OnLines.startProbe ..)
    | with_reducible apply OnLines.trans (k := OnLines.onClock ..)
    | split
    | intro _ _
    | intro _

theorem OnLines.lineBoundaryOne (c : Nat) (l : LineId) (s : State) : OnLines s (State.lineBoundaryOne c l s) := by
  unfold State.lineBoundaryOne
  try dsimp only
  repeat' first
    | with_reducible apply OnLines.refl
    | exact fun _ => rfl
    | exact fun _ => ⟨rfl, rfl⟩
    | exact Eq.refl _
    | assumption
    | with_reducible apply OnLines.trans (k := OnLines.codedFrame ..)
    | with_reducible apply OnLines.trans (k := OnLines.startImpulse ..)
    | with_reducible apply OnLines.trans (k := OnLines.setLineState ..)
    | split
    | intro _ _
    | intro _

theorem OnLines.lineBoundary (c : CivilTime) (s : State) : OnLines s (State.lineBoundary c s) := by
  unfold State.lineBoundary
  try dsimp only
  repeat' first
    | with_reducible apply OnLines.refl
    | exact fun _ => rfl
    | exact fun _ => ⟨rfl, rfl⟩
    | exact Eq.refl _
    | assumption
    | with_reducible apply OnLines.each
    | with_reducible apply OnLines.trans (k := OnLines.lineBoundaryOne ..)
    | split
    | intro _ _
    | intro _

theorem OnLines.lineMoveOne (l : LineId) (s : State) : OnLines s (State.lineMoveOne l s) := by
  unfold State.lineMoveOne
  try dsimp only
  repeat' first
    | with_reducible apply OnLines.refl
    | exact fun _ => rfl
    | exact fun _ => ⟨rfl, rfl⟩
    | exact Eq.refl _
    | assumption
    | with_reducible apply OnLines.trans (k := OnLines.codedFrame ..)
    | with_reducible apply OnLines.trans (k := OnLines.triggerLine ..)
    | split
    | intro _ _
    | intro _

theorem OnLines.lineMove (s : State) : OnLines s (State.lineMove s) := by
  unfold State.lineMove
  try dsimp only
  repeat' first
    | with_reducible apply OnLines.refl
    | exact fun _ => rfl
    | exact fun _ => ⟨rfl, rfl⟩
    | exact Eq.refl _
    | assumption
    | with_reducible apply OnLines.each
    | with_reducible apply OnLines.trans (k := OnLines.lineMoveOne ..)
    | split
    | intro _ _
    | intro _

theorem OnLines.lineRunning (s : State) : OnLines s (State.lineRunning s) := by
  unfold State.lineRunning
  try dsimp only
  repeat' first
    | with_reducible apply OnLines.refl
    | exact fun _ => rfl
    | exact fun _ => ⟨rfl, rfl⟩
    | exact Eq.refl _
    | assumption
    | with_reducible apply OnLines.each
    | with_reducible apply OnLines.trans (k := OnLines.triggerLine ..)
    | split
    | intro _ _
    | intro _

theorem OnLines.cutImpulse (l : LineId) (s : State) : OnLines s (State.cutImpulse l s) := by
  unfold State.cutImpulse
  try dsimp only
  repeat' first
    | with_reducible apply OnLines.refl
    | exact fun _ => rfl
    | exact fun _ => ⟨rfl, rfl⟩
    | exact Eq.refl _
    | assumption
    | with_reducible apply OnLines.trans (k := OnLines.clearInflight ..)
    | with_reducible apply OnLines.trans (k := OnLines.onClock ..)
    | with_reducible apply OnLines.trans (k := OnLines.setLineClass ..)
    | with_reducible apply OnLines.trans (k := OnLines.setLineState ..)
    | split
    | intro _ _
    | intro _

theorem OnLines.lineReserveOne (l : LineId) (s : State) : OnLines s (State.lineReserveOne l s) := by
  unfold State.lineReserveOne
  try dsimp only
  repeat' first
    | with_reducible apply OnLines.refl
    | exact fun _ => rfl
    | exact fun _ => ⟨rfl, rfl⟩
    | exact Eq.refl _
    | assumption
    | with_reducible apply OnLines.trans (k := OnLines.onClock ..)
    | with_reducible apply OnLines.trans (k := OnLines.setLineState ..)
    | split
    | intro _ _
    | intro _

theorem OnLines.lineReserve (s : State) : OnLines s s.lineReserve :=
  OnLines.each _ _ (OnLines.onLine _ fun _ => Nat.zero_le _) OnLines.lineReserveOne

theorem OnLines.lineMainsBackOne (l : LineId) (s : State) : OnLines s (State.lineMainsBackOne l s) := by
  unfold State.lineMainsBackOne
  try dsimp only
  repeat' first
    | with_reducible apply OnLines.refl
    | exact fun _ => rfl
    | exact fun _ => ⟨rfl, rfl⟩
    | exact Eq.refl _
    | assumption
    | with_reducible apply OnLines.trans (k := OnLines.onClock ..)
    | with_reducible apply OnLines.trans (k := OnLines.triggerLine ..)
    | split
    | intro _ _
    | intro _

theorem OnLines.lineMainsBack (s : State) : OnLines s (State.lineMainsBack s) := by
  unfold State.lineMainsBack
  try dsimp only
  repeat' first
    | with_reducible apply OnLines.refl
    | exact fun _ => rfl
    | exact fun _ => ⟨rfl, rfl⟩
    | exact Eq.refl _
    | assumption
    | with_reducible apply OnLines.each
    | with_reducible apply OnLines.trans (k := OnLines.lineMainsBackOne ..)
    | split
    | intro _ _
    | intro _

theorem OnLines.setDisplay (l : LineId) (position : Nat) (p : Polarity) (s : State) : OnLines s (State.setDisplay l position p s).1 := by
  unfold State.setDisplay
  try dsimp only
  repeat' first
    | with_reducible apply OnLines.refl
    | exact fun _ => rfl
    | exact fun _ => ⟨rfl, rfl⟩
    | exact Eq.refl _
    | assumption
    | with_reducible apply OnLines.trans (k := OnLines.onClock ..)
    | with_reducible apply OnLines.trans (k := OnLines.setLineState ..)
    | with_reducible apply OnLines.trans (k := OnLines.triggerLine ..)
    | split
    | intro _ _
    | intro _

theorem OnLines.takeSetDisplay (line polarity position : Nat) (s : State) :
    OnLines s (s.takeSetDisplay line polarity position).1 := by
  unfold State.takeSetDisplay
  repeat' split
  all_goals first | exact OnLines.refl s | exact OnLines.setDisplay _ _ _ _

theorem OnLines.stopLine (l : LineId) (s : State) : OnLines s (State.stopLine l s) := by
  unfold State.stopLine
  try dsimp only
  repeat' first
    | with_reducible apply OnLines.refl
    | exact fun _ => rfl
    | exact fun _ => ⟨rfl, rfl⟩
    | exact Eq.refl _
    | assumption
    | with_reducible apply OnLines.trans (k := OnLines.setLineState ..)
    | with_reducible apply OnLines.trans (k := OnLines.onClock ..)
    | with_reducible apply OnLines.trans (k := OnLines.leaveArbiter ..)
    | split
    | intro _ _
    | intro _

theorem OnLines.restartLine (l : LineId) (s : State) : OnLines s (State.restartLine l s) := by
  unfold State.restartLine
  try dsimp only
  repeat' first
    | with_reducible apply OnLines.refl
    | exact fun _ => rfl
    | exact fun _ => ⟨rfl, rfl⟩
    | exact Eq.refl _
    | assumption
    | with_reducible apply OnLines.trans (k := OnLines.onClock ..)
    | with_reducible apply OnLines.trans (k := OnLines.setLineState ..)
    | with_reducible apply OnLines.trans (k := OnLines.triggerLine ..)
    | split
    | intro _ _
    | intro _

theorem OnLines.runLine (l : LineId) (s : State) : OnLines s (s.runLine l).1 := by
  unfold State.runLine
  dsimp only
  split
  · exact OnLines.restartLine _ _
  · exact OnLines.refl s
  · exact OnLines.refl s
  · dsimp only
    split
    · exact OnLines.triggerLine _ _
    · exact OnLines.refl s

theorem OnLines.probeLine (l : LineId) (s : State) : OnLines s (s.probeLine l).1 := by
  unfold State.probeLine
  dsimp only
  repeat' split
  all_goals dsimp only
  all_goals first | exact OnLines.refl s | exact OnLines.onClock _ _ _

theorem OnLines.takeLineControl (line action : Nat) (s : State) : OnLines s (s.takeLineControl line action).1 := by
  unfold State.takeLineControl
  repeat' split
  all_goals first
    | exact OnLines.refl s
    | exact OnLines.stopLine _ _
    | exact OnLines.runLine _ _
    | exact OnLines.probeLine _ _

theorem OnLines.installSameKind (l : LineId) (s : State) : OnLines s (State.installSameKind l s) := by
  unfold State.installSameKind
  try dsimp only
  repeat' first
    | with_reducible apply OnLines.refl
    | exact fun _ => rfl
    | exact fun _ => ⟨rfl, rfl⟩
    | exact Eq.refl _
    | assumption
    | with_reducible apply OnLines.trans (k := OnLines.setLineState ..)
    | with_reducible apply OnLines.trans (k := OnLines.onClock ..)
    | split
    | intro _ _
    | intro _

theorem OnLines.installNewKind (l : LineId) (s : State) : OnLines s (State.installNewKind l s) := by
  unfold State.installNewKind
  try dsimp only
  repeat' first
    | with_reducible apply OnLines.refl
    | exact fun _ => rfl
    | exact fun _ => ⟨rfl, rfl⟩
    | exact Eq.refl _
    | assumption
    | with_reducible apply OnLines.trans (k := OnLines.clearInflight ..)
    | with_reducible apply OnLines.trans (k := OnLines.onClock ..)
    | with_reducible apply OnLines.trans (k := OnLines.setLineState ..)
    | split
    | intro _ _
    | intro _

theorem OnLines.installLine (l : LineId) (x : LineSetup) (s : State) : OnLines s (State.installLine l x s) := by
  unfold State.installLine
  try dsimp only
  repeat' first
    | with_reducible apply OnLines.refl
    | exact fun _ => rfl
    | exact fun _ => ⟨rfl, rfl⟩
    | exact Eq.refl _
    | assumption
    | with_reducible apply OnLines.trans (k := OnLines.onClock ..)
    | with_reducible apply OnLines.trans (k := OnLines.installSameKind ..)
    | with_reducible apply OnLines.trans (k := OnLines.installNewKind ..)
    | split
    | intro _ _
    | intro _

theorem OnLines.installLines (budget : Nat) (xs : Tab LineSetup 8) (s : State) : OnLines s (s.installLines budget xs) := by
  unfold State.installLines
  dsimp only
  refine (OnLines.each _ _ (OnLines.onLine _ fun _ => Nat.zero_le _) fun l t => ?_).trans (OnLines.lineRunning _)
  exact OnLines.installLine _ _ _

theorem OnLines.setThresholds (first : Nat) (pairs : List (Nat × Nat)) (s : State) : OnLines s (State.setThresholds first pairs s) := by
  unfold State.setThresholds
  try dsimp only
  repeat' first
    | with_reducible apply OnLines.refl
    | exact fun _ => rfl
    | exact fun _ => ⟨rfl, rfl⟩
    | exact Eq.refl _
    | assumption
    | with_reducible apply OnLines.trans (k := OnLines.onScan ..)
    | split
    | intro _ _
    | intro _

end Sys2Proof.Machine
end

