-- ==== Sys2Proof/Laws/Steady.lean ====
section
/-! SUPPORT. The operations that reach several blocks are steady: they leave the Time Base, power, the pins, the queue and the cells alone, and keep the invariants of Safety. -/

namespace Sys2Proof.Machine

/-! ### Updates -/

theorem Steady.onCal (f : Calendar → Calendar) (s : State) : Steady s (s.onCal f) := { Steady.refl s with }

theorem Steady.onRouter {s : State} (f : Router → Router) (h : (f s.router).zones = s.router.zones) :
    Steady s (s.onRouter f) := by
  refine { Steady.refl s with modes := ?_ }
  intro m z
  have e : (s.onRouter f).zone z = s.zone z := by simp only [State.zone, onRouter_router, h]
  rw [e]
  exact m z

theorem Steady.onDrill (f : DrillCtl → DrillCtl) (s : State) : Steady s (s.onDrill f) := { Steady.refl s with }
theorem Steady.onBell (f : Bell → Bell) (s : State) : Steady s (s.onBell f) := { Steady.refl s with }
theorem Steady.onTone (f : ToneBank → ToneBank) (s : State) : Steady s (s.onTone f) := { Steady.refl s with }
theorem Steady.onScan (f : Scanner → Scanner) (s : State) : Steady s (s.onScan f) := { Steady.refl s with }
theorem Steady.onWork (f : Work → Work) (s : State) : Steady s (s.onWork f) := { Steady.refl s with }
theorem Steady.onChannel (k : ChannelId) (f : Channel → Channel) (s : State) : Steady s (s.onChannel k f) :=
  { Steady.refl s with }

/-- Any change of a zone's settings, its effective mode computed again (R59). -/
theorem Steady.changeZone (z : ZoneId) (f : Zone → Zone) (s : State) : Steady s (s.changeZone z f) := by
  have hm : s.modesRight → (s.changeZone z f).modesRight := by
    intro m
    refine refreshZone_modes z _ fun y hy => ?_
    rw [onZone_zone, if_neg hy]
    exact m y
  have k := (Calm.rejudge z ((s.onZone z f).onZone z fun r => { r with effective := r.compute })).steady
  unfold State.changeZone State.refreshZone at hm ⊢
  split
  · rename_i e
    simp only [e, if_true] at hm
    exact { Steady.refl s with modes := hm }
  · rename_i e
    simp only [e, if_false] at hm
    exact { k with modes := hm }

theorem Steady.setFault (fault : Bool) (z : ZoneId) (s : State) : Steady s (s.setFault fault z) := by
  unfold State.setFault
  split
  · exact Steady.refl s
  · with_reducible apply Steady.trans (k := (Calm.rejudge ..).steady)
    refine { Steady.refl s with modes := ?_ }
    intro m y
    rw [onZone_zone]
    split
    · rename_i e; subst e; exact m y
    · exact m y

/-! ### Zones and amplifiers -/

theorem Steady.overrideZone (o : Option HostOverride) (z : ZoneId) (sc : State × Nat) :
    Steady sc.1 (State.overrideZone o z sc).1 := Steady.changeZone _ _ _

theorem Steady.overrideFold (o : Option HostOverride) (zs : List ZoneId) : ∀ sc : State × Nat,
    Steady sc.1 (zs.foldl (fun sc z => State.overrideZone o z sc) sc).1 := by
  induction zs with
  | nil => exact fun sc => Steady.refl sc.1
  | cons z zs ih => exact fun sc => (Steady.overrideZone o z sc).trans (ih _)

theorem Steady.overrideZones (o : Option HostOverride) (zs : List ZoneId) (s : State) :
    Steady s (s.overrideZones o zs).1 := Steady.overrideFold o zs (s, 0)

theorem Steady.takeAdmission (kind action minutes group : Nat) (mask : ZoneSet) (s : State) :
    Steady s (s.takeAdmission kind action minutes group mask).1 := by
  unfold State.takeAdmission State.releaseOverrides State.placeOverrides
  dsimp only
  repeat' split
  all_goals first | exact Steady.refl s | exact Steady.overrideZones _ _ s

theorem Steady.expireOverride (z : ZoneId) (s : State) : Steady s (State.expireOverride z s) := by
  unfold State.expireOverride
  try dsimp only
  repeat' first
    | with_reducible apply Steady.refl
    | exact fun _ => rfl
    | exact fun _ => ⟨rfl, rfl⟩
    | exact fun _ => ⟨rfl, rfl, rfl, rfl⟩
    | exact Eq.refl _
    | exact ⟨rfl, rfl, rfl⟩
    | assumption
    | with_reducible apply Steady.trans (k := Steady.changeZone ..)
    | split
    | intro _ _
    | intro _

theorem Steady.takeAmpClass (a : Fin 16) (c : ChanClass) (s : State) : Steady s (State.takeAmpClass a c s) := by
  unfold State.takeAmpClass
  try dsimp only
  repeat' first
    | with_reducible apply Steady.refl
    | exact fun _ => rfl
    | exact fun _ => ⟨rfl, rfl⟩
    | exact fun _ => ⟨rfl, rfl, rfl, rfl⟩
    | exact Eq.refl _
    | exact ⟨rfl, rfl, rfl⟩
    | assumption
    | with_reducible apply Steady.each
    | with_reducible apply Steady.trans (k := Steady.setFault ..)
    | split
    | intro _ _
    | intro _

theorem Steady.changeAmpClass (k : ChannelId) (c : ChanClass) (reading : Nat) (s : State) : Steady s (State.changeAmpClass k c reading s) := by
  unfold State.changeAmpClass
  try dsimp only
  repeat' first
    | with_reducible apply Steady.refl
    | exact fun _ => rfl
    | exact fun _ => ⟨rfl, rfl⟩
    | exact fun _ => ⟨rfl, rfl, rfl, rfl⟩
    | exact Eq.refl _
    | exact ⟨rfl, rfl, rfl⟩
    | assumption
    | with_reducible apply Steady.trans (k := Steady.onChannel ..)
    | with_reducible apply Steady.trans (k := Steady.takeAmpClass ..)
    | with_reducible apply Steady.trans (k := (Calm.report ..).steady)
    | split
    | intro _ _
    | intro _

theorem Steady.ampRule (k : ChannelId) (reading : Nat) (s : State) : Steady s (State.ampRule k reading s) := by
  unfold State.ampRule
  try dsimp only
  repeat' first
    | with_reducible apply Steady.refl
    | exact fun _ => rfl
    | exact fun _ => ⟨rfl, rfl⟩
    | exact fun _ => ⟨rfl, rfl, rfl, rfl⟩
    | exact Eq.refl _
    | exact ⟨rfl, rfl, rfl⟩
    | assumption
    | with_reducible apply Steady.trans (k := Steady.changeAmpClass ..)
    | split
    | intro _ _
    | intro _

theorem Steady.endConversion (reading : Nat) (s : State) : Steady s (State.endConversion reading s) := by
  unfold State.endConversion
  try dsimp only
  repeat' first
    | with_reducible apply Steady.refl
    | exact fun _ => rfl
    | exact fun _ => ⟨rfl, rfl⟩
    | exact fun _ => ⟨rfl, rfl, rfl, rfl⟩
    | exact Eq.refl _
    | exact ⟨rfl, rfl, rfl⟩
    | assumption
    | with_reducible apply Steady.trans (k := Steady.onChannel ..)
    | with_reducible apply Steady.trans (k := Steady.ampRule ..)
    | with_reducible apply Steady.trans (k := Steady.onScan ..)
    | with_reducible apply Steady.trans (k := (OnLines.takeResult ..).steady)
    | split
    | intro _ _
    | intro _

/-! ### The Calendar Unit -/

theorem Steady.calDateChange (d : Nat) (s : State) : Steady s (State.calDateChange d s) := by
  unfold State.calDateChange
  try dsimp only
  repeat' first
    | with_reducible apply Steady.refl
    | exact fun _ => rfl
    | exact fun _ => ⟨rfl, rfl⟩
    | exact fun _ => ⟨rfl, rfl, rfl, rfl⟩
    | exact Eq.refl _
    | exact ⟨rfl, rfl, rfl⟩
    | assumption
    | with_reducible apply Steady.trans (k := Steady.onCal ..)
    | with_reducible apply Steady.trans (k := (Calm.handSelections ..).steady)
    | with_reducible apply Steady.trans (k := (Calm.handDayQuiet ..).steady)
    | split
    | intro _ _
    | intro _

theorem Steady.calMove (m : TimeMove) (s : State) : Steady s (State.calMove m s) := by
  unfold State.calMove
  try dsimp only
  repeat' first
    | with_reducible apply Steady.refl
    | exact fun _ => rfl
    | exact fun _ => ⟨rfl, rfl⟩
    | exact fun _ => ⟨rfl, rfl, rfl, rfl⟩
    | exact Eq.refl _
    | exact ⟨rfl, rfl, rfl⟩
    | assumption
    | with_reducible apply Steady.trans (k := Steady.calDateChange ..)
    | split
    | intro _ _
    | intro _

theorem Steady.calRunning (s : State) : Steady s (State.calRunning s) := by
  unfold State.calRunning
  try dsimp only
  repeat' first
    | with_reducible apply Steady.refl
    | exact fun _ => rfl
    | exact fun _ => ⟨rfl, rfl⟩
    | exact fun _ => ⟨rfl, rfl, rfl, rfl⟩
    | exact Eq.refl _
    | exact ⟨rfl, rfl, rfl⟩
    | assumption
    | with_reducible apply Steady.trans (k := Steady.calDateChange ..)
    | with_reducible apply Steady.trans (k := (Calm.handDayQuiet ..).steady)
    | split
    | intro _ _
    | intro _

theorem Steady.calCalendarInstalled (s : State) : Steady s (State.calCalendarInstalled s) := by
  unfold State.calCalendarInstalled
  try dsimp only
  repeat' first
    | with_reducible apply Steady.refl
    | exact fun _ => rfl
    | exact fun _ => ⟨rfl, rfl⟩
    | exact fun _ => ⟨rfl, rfl, rfl, rfl⟩
    | exact Eq.refl _
    | exact ⟨rfl, rfl, rfl⟩
    | assumption
    | with_reducible apply Steady.trans (k := Steady.onCal ..)
    | with_reducible apply Steady.trans (k := (Calm.handSelections ..).steady)
    | with_reducible apply Steady.trans (k := (Calm.handDayQuiet ..).steady)
    | split
    | intro _ _
    | intro _

theorem Steady.overrideDone (d what : Nat) (s : State) : Steady s (s.overrideDone d what).1 := by
  unfold State.overrideDone
  dsimp only
  split
  · dsimp only
    with_reducible apply Steady.trans (k := (Calm.handDayQuiet ..).steady)
    with_reducible apply Steady.trans (k := (Calm.handSelections ..).steady)
    exact Steady.onCal _ _
  · exact Steady.refl s

theorem Steady.takeDayOverride (action dayType year month day : Nat) (s : State) :
    Steady s (s.takeDayOverride action dayType year month day).1 := by
  unfold State.takeDayOverride State.setDayOverride State.clearDayOverride
  dsimp only
  repeat' split
  all_goals first
    | with_reducible apply Steady.refl
    | (with_reducible apply Steady.trans (k := Steady.overrideDone ..); exact Steady.onCal _ _)

/-! ### Consoles (R83 to R85) -/

theorem Steady.onConsole (c : ConsoleId) (f : Console → Console) (s : State) : Steady s (s.onConsole c f) :=
  { Steady.refl s with }

theorem Steady.pressActs (c : ConsoleId) (s : State) : Steady s (s.pressActs c) := by
  unfold State.pressActs
  split
  · exact Steady.onConsole _ _ _
  · rename_i g _
    have h := (Calm.createSession (s.pageAsk c g) s).steady
    split <;> rename_i hx <;> rw [hx] at h
    · exact h.trans (Steady.onConsole _ _ _)
    · exact (h.trans (Steady.onConsole _ _ _)).trans (Calm.whole _).steady

theorem Steady.pttPress (c : ConsoleId) (s : State) : Steady s (s.pttPress c) := by
  unfold State.pttPress
  split
  · exact (Steady.onConsole _ _ _).trans (Steady.pressActs _ _)
  · exact Steady.refl s

theorem Steady.releaseActs (c : ConsoleId) (s : State) : Steady s (s.releaseActs c) := by
  unfold State.releaseActs
  dsimp only
  split
  · exact ((Steady.onConsole _ _ _).trans (Calm.endSession _ _ _).steady).trans (Calm.whole _).steady
  · exact Steady.onConsole _ _ _

theorem Steady.pttRelease (c : ConsoleId) (s : State) : Steady s (s.pttRelease c) := by
  unfold State.pttRelease
  split
  · exact (Steady.onConsole _ _ _).trans (Steady.releaseActs _ _)
  · exact Steady.refl s

theorem Steady.emergencyChange (c : ConsoleId) (s : State) : Steady s (s.emergencyChange c) := by
  unfold State.emergencyChange
  split
  · exact Steady.onConsole _ _ _
  · exact Steady.refl s

theorem Steady.takeConsoleSet (console group ceiling : Nat) (s : State) :
    Steady s (s.takeConsoleSet console group ceiling).1 := by
  unfold State.takeConsoleSet
  split
  · exact { Steady.refl s with }
  · exact Steady.refl s

/-! ### Boundaries and moves, the mirror and the header -/

theorem Steady.handMove (m : TimeMove) (s : State) : Steady s (State.handMove m s) := by
  unfold State.handMove
  try dsimp only
  repeat' first
    | with_reducible apply Steady.refl
    | exact fun _ => rfl
    | exact fun _ => ⟨rfl, rfl⟩
    | exact fun _ => ⟨rfl, rfl, rfl, rfl⟩
    | exact Eq.refl _
    | exact ⟨rfl, rfl, rfl⟩
    | assumption
    | with_reducible apply Steady.trans (k := Steady.calMove ..)
    | with_reducible apply Steady.trans (k := (Calm.bellMove ..).steady)
    | with_reducible apply Steady.trans (k := (OnLines.lineMove ..).steady)
    | with_reducible apply Steady.trans (k := (Calm.report ..).steady)
    | split
    | intro _ _
    | intro _

theorem Steady.handBoundary (c : CivilTime) (dateChange : Bool) (s : State) : Steady s (State.handBoundary c dateChange s) := by
  unfold State.handBoundary
  try dsimp only
  repeat' first
    | with_reducible apply Steady.refl
    | exact fun _ => rfl
    | exact fun _ => ⟨rfl, rfl⟩
    | exact fun _ => ⟨rfl, rfl, rfl, rfl⟩
    | exact Eq.refl _
    | exact ⟨rfl, rfl, rfl⟩
    | assumption
    | with_reducible apply Steady.trans (k := Steady.calDateChange ..)
    | with_reducible apply Steady.trans (k := (Calm.bellBoundary ..).steady)
    | with_reducible apply Steady.trans (k := (OnLines.lineBoundary ..).steady)
    | split
    | intro _ _
    | intro _

theorem zoneBody_length (r : Zone) : (zoneBody r).length = 12 := by
  simp [zoneBody]

theorem sessionBody_length (s : State) (n : SessId) : (s.sessionBody n).length = 28 := by
  unfold State.sessionBody
  split <;> simp [maskBytes]

theorem lineBody_length (s : State) (l : LineId) : (s.lineBody l).length = 28 := by
  unfold State.lineBody
  dsimp only
  simp only [List.length_append, shown_length, u8_length, leBytes_length, List.length_replicate,
    shownOr_length 3 (fun d : Decision => leBytes 3 d.expected) (fun _ => leBytes_length _ _)]
  repeat' split
  all_goals simp

theorem groupBody_length (s : State) (g : SchedId) : (s.groupBody g).length = 12 := by
  simp only [State.groupBody, List.length_append, shown_length, u8_length, List.length_cons, List.length_nil,
    leSigned, leBytes_length, shownOr_length 2 (leBytes 2) (leBytes_length 2)]

theorem generatorBody_length (r : Generator) : (generatorBody r).length = 4 := by
  simp only [generatorBody, List.length_append, shown_length, u8_length, List.length_cons, List.length_nil,
    shownOr_length 1 (fun c : Cls => u8 c.num) (fun _ => rfl),
    shownOr_length 1 (fun p : PatternId => u8 p.val) (fun _ => rfl)]

theorem channelBody_length (r : Channel) : (channelBody r).length = 4 := by
  simp [channelBody]

theorem timeBody_length (s : State) : s.timeBody.length = 60 := by
  simp [State.timeBody]

/-- The records' lengths, each with its two update counts (R182). -/
theorem mirrorBodies_sum (s : State) : (s.mirrorBodies.map fun r => r.2.length + 4).sum = 0x900 := by
  simp only [State.mirrorBodies, List.map_append, List.map_map, List.map_cons, List.map_nil, List.sum_append,
    Function.comp_def, zoneBody_length, sessionBody_length, lineBody_length, buildingBody_length, groupBody_length,
    generatorBody_length, channelBody_length, timeBody_length]
  decide

theorem zipWith_records (free : Nat) : ∀ (cs : List Word) (xs : List (Nat × List Shown)),
    (List.zipWith (fun c rec => mirrorRecord free rec.1 c rec.2) cs xs).flatten.length ≤
      (xs.map fun r => r.2.length + 4).sum := by
  intro cs
  induction cs with
  | nil => intro xs; simp
  | cons c cs ih =>
    intro xs
    cases xs with
    | nil => simp
    | cons x xs =>
      have := ih xs
      simp only [List.zipWith_cons_cons, List.flatten_cons, List.length_append, mirrorRecord_length, List.map_cons,
        List.sum_cons]
      omega

theorem mirrorBytes_length (s : State) : s.mirrorBytes.length ≤ 0x900 := by
  have := zipWith_records s.work.free s.rh.mirrorCounts.toList s.mirrorBodies
  rw [mirrorBodies_sum] at this
  exact this

theorem Steady.writeMirror (s : State) : Steady s s.writeMirror := by
  unfold State.writeMirror
  dsimp only
  refine Steady.trans (Steady.trans (Reported.onRh _ rfl rfl rfl rfl rfl id).calm.steady
    (Calm.onMem _ _ fun a h1 h2 h => ?_).steady) (Calm.drawFree _).steady
  have := mirrorBytes_length (s.onRh ReqHandler.countMirror)
  simp only [hostArea] at h
  omega

theorem Steady.header (s : State) (valid : Bool) (pages : List Byte) :
    Steady s (s.onMem fun m => m.write 0 (s.headerBytes valid pages)) := by
  refine (Calm.onMem _ _ fun a h1 h2 h => ?_).steady
  simp only [State.headerBytes, fit_length] at h2
  simp only [hostArea] at h
  omega

theorem Steady.writeHeader (s : State) : Steady s s.writeHeader := Steady.header _ _ _

theorem Steady.writeStartHeader (valid : Bool) (s : State) : Steady s (s.writeStartHeader valid) := Steady.header _ _ _

theorem Steady.publish (s : State) : Steady s (State.publish s) := by
  unfold State.publish
  try dsimp only
  repeat' first
    | with_reducible apply Steady.refl
    | exact fun _ => rfl
    | exact fun _ => ⟨rfl, rfl⟩
    | exact fun _ => ⟨rfl, rfl, rfl, rfl⟩
    | exact Eq.refl _
    | exact ⟨rfl, rfl, rfl⟩
    | assumption
    | with_reducible apply Steady.trans (k := Steady.writeMirror ..)
    | with_reducible apply Steady.trans (k := Steady.writeHeader ..)
    | split
    | intro _ _
    | intro _

/-! ### Installs while RUNNING -/

theorem Steady.installZone (d : SiteData) (z : ZoneId) (s : State) : Steady s (s.installZone d z) :=
  Steady.changeZone _ _ _

theorem withLayout_zones (d : SiteData) (r : Router) : (Router.withLayout d r.zones r).zones = r.zones := rfl

theorem Steady.installSite (d : SiteData) (s : State) : Steady s (s.installSite d) := by
  unfold State.installSite
  dsimp only
  with_reducible apply Steady.trans (k := (Calm.handQuietMarks ..).steady)
  with_reducible apply Steady.trans (k := (Calm.handDayQuiet ..).steady)
  with_reducible apply Steady.trans (k := (OnLines.setThresholds ..).steady)
  with_reducible apply Steady.trans (k := Steady.onRouter _ ?_)
  · exact Steady.each _ _ (Calm.endSessions _ _ _).steady (Steady.installZone d)
  · exact withLayout_zones _ _

end Sys2Proof.Machine
end

