-- ==== Sys2Proof/Laws/Orderly.lean ====
section
/-! SUPPORT. The operations of the Time Base, of power and of the Request Handler: what each leaves alone (Orderly), and where a start may come in between (Restarts). Both keep the invariants of Safety. -/

namespace Sys2Proof.Machine

/-- The queue, the supply, the part state and the elapsed count stand, and the invariants are kept. -/
structure Orderly (s t : State) : Prop where
  pending  : t.pending = s.pending
  supplied : t.power.supplied = s.power.supplied
  part     : t.power.part = s.power.part
  elapsed  : t.time.elapsed = s.time.elapsed
  memories : s.memoriesWf → t.memoriesWf
  modes    : s.modesRight → t.modesRight
  grants   : s.line.withinBudget → t.line.withinBudget
  pages    : s.rh.fits → t.rh.fits

theorem Orderly.refl (s : State) : Orderly s s := ⟨rfl, rfl, rfl, rfl, id, id, id, id⟩

theorem Orderly.trans {a b c : State} (h : Orderly a b) (k : Orderly b c) : Orderly a c :=
  ⟨k.pending.trans h.pending, k.supplied.trans h.supplied, k.part.trans h.part, k.elapsed.trans h.elapsed,
    fun x => k.memories (h.memories x), fun x => k.modes (h.modes x), fun x => k.grants (h.grants x),
    fun x => k.pages (h.pages x)⟩

theorem Orderly.each {α : Type} {r s : State} (f : α → State → State) (xs : List α) (hs : Orderly r s)
    (h : ∀ x t, Orderly t (f x t)) : Orderly r (s.each xs f) :=
  hs.trans (each_induct Orderly Orderly.refl Orderly.trans f h xs s)

theorem Steady.orderly {s t : State} (h : Steady s t) : Orderly s t :=
  ⟨h.pending, by rw [h.power], by rw [h.power], by rw [h.time], fun x => ⟨h.wf x.1, by rw [h.power]; exact x.2⟩,
    h.modes, h.grants, h.fits⟩

/-- As Orderly, but a start may have been made: then the part is STARTING and the elapsed count is 0. -/
structure Restarts (s t : State) : Prop where
  pending  : t.pending = s.pending
  supplied : t.power.supplied = s.power.supplied
  count    : (t.time.elapsed = s.time.elapsed ∧ t.power.part = s.power.part) ∨
    (t.power.part = .starting ∧ t.time.elapsed = 0)
  memories : s.memoriesWf → t.memoriesWf
  modes    : s.modesRight → t.modesRight
  grants   : s.line.withinBudget → t.line.withinBudget
  pages    : s.rh.fits → t.rh.fits

theorem Orderly.restarts {s t : State} (h : Orderly s t) : Restarts s t :=
  ⟨h.pending, h.supplied, .inl ⟨h.elapsed, h.part⟩, h.memories, h.modes, h.grants, h.pages⟩

theorem Restarts.refl (s : State) : Restarts s s := (Orderly.refl s).restarts

theorem Restarts.trans {a b c : State} (h : Restarts a b) (k : Restarts b c) : Restarts a c := by
  refine ⟨k.pending.trans h.pending, k.supplied.trans h.supplied, ?_, fun x => k.memories (h.memories x),
    fun x => k.modes (h.modes x), fun x => k.grants (h.grants x), fun x => k.pages (h.pages x)⟩
  rcases k.count with ⟨k1, k2⟩ | k
  · rcases h.count with ⟨h1, h2⟩ | ⟨h1, h2⟩
    · exact .inl ⟨k1.trans h1, k2.trans h2⟩
    · exact .inr ⟨k2.trans h1, k1.trans h2⟩
  · exact .inr k

theorem Restarts.each {α : Type} {r s : State} (f : α → State → State) (xs : List α) (hs : Restarts r s)
    (h : ∀ x t, Restarts t (f x t)) : Restarts r (s.each xs f) :=
  hs.trans (each_induct Restarts Restarts.refl Restarts.trans f h xs s)

/-! ### Updates -/

theorem Orderly.onTime {s : State} (f : TimeBase → TimeBase) (h : (f s.time).elapsed = s.time.elapsed) :
    Orderly s (s.onTime f) := { Orderly.refl s with elapsed := h }

/-- The fields of the Power Monitor's record that only starts, supply and the store change. -/
def PowerMon.spine (p : PowerMon) : Bool × PartState × Mem := (p.supplied, p.part, p.eeprom)

theorem Orderly.onPower {s : State} (f : PowerMon → PowerMon) (h : (f s.power).spine = s.power.spine) :
    Orderly s (s.onPower f) := by
  simp only [PowerMon.spine, Prod.mk.injEq] at h
  exact { Orderly.refl s with
    supplied := h.1, part := h.2.1
    memories := fun x => ⟨x.1, by show Mem.wf (f s.power).eeprom; rw [h.2.2]; exact x.2⟩ }

/-- A write of common memory. -/
theorem Orderly.onMem (base : Nat) (bs : List Byte) (s : State) : Orderly s (s.onMem fun m => m.write base bs) :=
  ⟨rfl, rfl, rfl, rfl, fun x => ⟨wf_write _ _ _ x.1, x.2⟩, id, id, id⟩

theorem Orderly.hostWrites (ws : List MemWrite) (s : State) : Orderly s (s.hostWrites ws) := by
  unfold State.hostWrites
  split
  · exact Orderly.each _ _ (Orderly.refl s) fun w t => Orderly.onMem _ _ t
  · exact Orderly.refl s

theorem Orderly.onRh {s : State} (f : ReqHandler → ReqHandler) (h : s.rh.fits → (f s.rh).fits) :
    Orderly s (s.onRh f) := { Orderly.refl s with pages := h }

theorem Orderly.onEeprom (base : Nat) (bs : List Byte) (s : State) :
    Orderly s (s.onEeprom fun m => m.write base bs) :=
  { Orderly.refl s with memories := fun x => ⟨x.1, wf_write _ _ _ x.2⟩ }

/-! ### The Time Base -/

theorem Orderly.setQuality (q : Quality) (timer : Option Nat) (s : State) : Orderly s (State.setQuality q timer s) := by
  unfold State.setQuality
  try dsimp only
  repeat' first
    | with_reducible apply Orderly.refl
    | exact fun _ => rfl
    | exact fun _ => ⟨rfl, rfl⟩
    | exact fun _ => ⟨rfl, rfl, rfl, rfl⟩
    | exact Eq.refl _
    | exact ⟨rfl, rfl, rfl⟩
    | assumption
    | with_reducible apply Orderly.trans (k := (Calm.report ..).steady.orderly)
    | with_reducible apply Orderly.trans (k := Orderly.onTime _ ?_)
    | split
    | intro _ _
    | intro _

theorem Orderly.lockedEnd (s : State) : Orderly s (State.lockedEnd s) := by
  unfold State.lockedEnd
  try dsimp only
  repeat' first
    | with_reducible apply Orderly.refl
    | exact fun _ => rfl
    | exact fun _ => ⟨rfl, rfl⟩
    | exact fun _ => ⟨rfl, rfl, rfl, rfl⟩
    | exact Eq.refl _
    | exact ⟨rfl, rfl, rfl⟩
    | assumption
    | with_reducible apply Orderly.trans (k := Orderly.setQuality ..)
    | split
    | intro _ _
    | intro _

theorem Orderly.holdoverEnd (s : State) : Orderly s (State.holdoverEnd s) := by
  unfold State.holdoverEnd
  try dsimp only
  repeat' first
    | with_reducible apply Orderly.refl
    | exact fun _ => rfl
    | exact fun _ => ⟨rfl, rfl⟩
    | exact fun _ => ⟨rfl, rfl, rfl, rfl⟩
    | exact Eq.refl _
    | exact ⟨rfl, rfl, rfl⟩
    | assumption
    | with_reducible apply Orderly.trans (k := Orderly.setQuality ..)
    | split
    | intro _ _
    | intro _

theorem Orderly.judgeDst (c : CivilTime) (dateChange : Bool) (s : State) : Orderly s (State.judgeDst c dateChange s) := by
  unfold State.judgeDst
  try dsimp only
  repeat' first
    | with_reducible apply Orderly.refl
    | exact fun _ => rfl
    | exact fun _ => ⟨rfl, rfl⟩
    | exact fun _ => ⟨rfl, rfl, rfl, rfl⟩
    | exact Eq.refl _
    | exact ⟨rfl, rfl, rfl⟩
    | assumption
    | with_reducible apply Orderly.trans (k := (Steady.handMove ..).orderly)
    | with_reducible apply Orderly.trans (k := Orderly.onTime _ ?_)
    | split
    | intro _ _
    | intro _

theorem slewBoundary_elapsed (r : TimeBase) : r.slewBoundary.elapsed = r.elapsed := by
  unfold TimeBase.slewBoundary
  dsimp only
  repeat' split
  all_goals exact Eq.refl _

theorem nextSecond_elapsed (r : TimeBase) : r.nextSecond.elapsed = r.elapsed := slewBoundary_elapsed r

theorem Orderly.secondBoundary (s : State) : Orderly s s.secondBoundary := by
  unfold State.secondBoundary
  split
  · dsimp only
    with_reducible apply Orderly.trans (k := (Steady.publish ..).orderly)
    with_reducible apply Orderly.trans (k := (Calm.whole ..).steady.orderly)
    with_reducible apply Orderly.trans (k := Orderly.judgeDst ..)
    with_reducible apply Orderly.trans (k := (Steady.handBoundary ..).orderly)
    exact Orderly.onTime _ (nextSecond_elapsed _)
  · exact Orderly.refl s

theorem Orderly.stepSec (sec : Nat) (s : State) : Orderly s (s.stepSec sec) := Orderly.onTime _ (Eq.refl _)

@[simp] theorem stepSec_time (sec : Nat) (s : State) : (s.stepSec sec).time = s.time.stepTo sec := rfl

/-- All that handing a step's time move can do: nothing, or the move (R6 step 5, R7). -/
theorem handStep_cases (cause : MoveCause) (s before : State) :
    s.handStep cause before = s ∨
      ∃ m, stepMove (!before.timeSet) cause before s = some m ∧ s.handStep cause before = s.handMove m := by
  unfold State.handStep
  split
  · exact .inr ⟨_, ‹_›, rfl⟩
  · exact .inl rfl

theorem Orderly.handStep (cause : MoveCause) (s before : State) : Orderly s (s.handStep cause before) := by
  unfold State.handStep
  split
  · exact (Steady.handMove ..).orderly
  · exact Orderly.refl s

theorem Orderly.takeTimeSet (p : TimeParams) (s : State) : Orderly s (s.takeTimeSet p).1 := by
  unfold State.takeTimeSet
  repeat' split
  all_goals first
    | with_reducible apply Orderly.refl
    | exact ((Orderly.stepSec _ _).trans (Orderly.setQuality _ _ _)).trans (Orderly.handStep _ _ _)

theorem Orderly.onCounters (f : RxCounters → RxCounters) (s : State) : Orderly s (s.onCounters f) :=
  Orderly.onTime _ (Eq.refl _)

theorem Orderly.dropAssembly (s : State) : Orderly s s.dropAssembly := Orderly.onTime _ (Eq.refl _)

theorem Orderly.formatError (s : State) : Orderly s (State.formatError s) := by
  unfold State.formatError
  try dsimp only
  repeat' first
    | with_reducible apply Orderly.refl
    | exact fun _ => rfl
    | exact fun _ => ⟨rfl, rfl⟩
    | exact fun _ => ⟨rfl, rfl, rfl, rfl⟩
    | exact Eq.refl _
    | exact ⟨rfl, rfl, rfl⟩
    | assumption
    | with_reducible apply Orderly.trans (k := Orderly.dropAssembly ..)
    | with_reducible apply Orderly.trans (k := Orderly.onCounters ..)
    | split
    | intro _ _
    | intro _

theorem Orderly.noteAgreement (agrees : Bool) (s : State) : Orderly s (State.noteAgreement agrees s) := by
  unfold State.noteAgreement
  try dsimp only
  repeat' first
    | with_reducible apply Orderly.refl
    | exact fun _ => rfl
    | exact fun _ => ⟨rfl, rfl⟩
    | exact fun _ => ⟨rfl, rfl, rfl, rfl⟩
    | exact Eq.refl _
    | exact ⟨rfl, rfl, rfl⟩
    | assumption
    | with_reducible apply Orderly.trans (k := Orderly.onCounters ..)
    | with_reducible apply Orderly.trans (k := (Calm.report ..).steady.orderly)
    | with_reducible apply Orderly.trans (k := Orderly.onTime _ ?_)
    | split
    | intro _ _
    | intro _

theorem Orderly.actOn (sec : Nat) (s : State) : Orderly s (State.actOn sec s) := by
  unfold State.actOn
  try dsimp only
  repeat' first
    | with_reducible apply Orderly.refl
    | exact fun _ => rfl
    | exact fun _ => ⟨rfl, rfl⟩
    | exact fun _ => ⟨rfl, rfl, rfl, rfl⟩
    | exact Eq.refl _
    | exact ⟨rfl, rfl, rfl⟩
    | assumption
    | with_reducible apply Orderly.trans (k := Orderly.onCounters ..)
    | with_reducible apply Orderly.trans (k := Orderly.handStep ..)
    | with_reducible apply Orderly.trans (k := Orderly.stepSec ..)
    | with_reducible apply Orderly.trans (k := Orderly.setQuality ..)
    | with_reducible apply Orderly.trans (k := Orderly.onTime _ ?_)
    | with_reducible apply Orderly.trans (k := (Calm.whole ..).steady.orderly)
    | split
    | intro _ _
    | intro _

theorem Orderly.acceptTelegram (sec cr : Nat) (s : State) : Orderly s (State.acceptTelegram sec cr s) := by
  unfold State.acceptTelegram
  try dsimp only
  repeat' first
    | with_reducible apply Orderly.refl
    | exact fun _ => rfl
    | exact fun _ => ⟨rfl, rfl⟩
    | exact fun _ => ⟨rfl, rfl, rfl, rfl⟩
    | exact Eq.refl _
    | exact ⟨rfl, rfl, rfl⟩
    | assumption
    | with_reducible apply Orderly.trans (k := Orderly.actOn ..)
    | with_reducible apply Orderly.trans (k := Orderly.onTime _ ?_)
    | split
    | intro _ _
    | intro _

theorem Orderly.takeTelegram (cs : List Byte) (cr : Nat) (s : State) : Orderly s (State.takeTelegram cs cr s) := by
  unfold State.takeTelegram
  try dsimp only
  repeat' first
    | with_reducible apply Orderly.refl
    | exact fun _ => rfl
    | exact fun _ => ⟨rfl, rfl⟩
    | exact fun _ => ⟨rfl, rfl, rfl, rfl⟩
    | exact Eq.refl _
    | exact ⟨rfl, rfl, rfl⟩
    | assumption
    | with_reducible apply Orderly.trans (k := Orderly.onCounters ..)
    | with_reducible apply Orderly.trans (k := Orderly.noteAgreement ..)
    | with_reducible apply Orderly.trans (k := Orderly.acceptTelegram ..)
    | split
    | intro _ _
    | intro _

theorem Orderly.assemble (b : Byte) (taken : Nat) (s : State) : Orderly s (State.assemble b taken s) := by
  unfold State.assemble
  try dsimp only
  repeat' first
    | with_reducible apply Orderly.refl
    | exact fun _ => rfl
    | exact fun _ => ⟨rfl, rfl⟩
    | exact fun _ => ⟨rfl, rfl, rfl, rfl⟩
    | exact Eq.refl _
    | exact ⟨rfl, rfl, rfl⟩
    | assumption
    | with_reducible apply Orderly.trans (k := Orderly.formatError ..)
    | with_reducible apply Orderly.trans (k := Orderly.dropAssembly ..)
    | with_reducible apply Orderly.trans (k := Orderly.takeTelegram ..)
    | with_reducible apply Orderly.trans (k := Orderly.onTime _ ?_)
    | split
    | intro _ _
    | intro _

theorem Orderly.examine (ch : RxChar) (taken : Nat) (s : State) : Orderly s (State.examine ch taken s) := by
  unfold State.examine
  try dsimp only
  repeat' first
    | with_reducible apply Orderly.refl
    | exact fun _ => rfl
    | exact fun _ => ⟨rfl, rfl⟩
    | exact fun _ => ⟨rfl, rfl, rfl, rfl⟩
    | exact Eq.refl _
    | exact ⟨rfl, rfl, rfl⟩
    | assumption
    | with_reducible apply Orderly.trans (k := Orderly.dropAssembly ..)
    | with_reducible apply Orderly.trans (k := Orderly.onCounters ..)
    | with_reducible apply Orderly.trans (k := Orderly.assemble ..)
    | split
    | intro _ _
    | intro _

theorem Orderly.examineHeld (s : State) : Orderly s (State.examineHeld s) := by
  unfold State.examineHeld
  try dsimp only
  repeat' first
    | with_reducible apply Orderly.refl
    | exact fun _ => rfl
    | exact fun _ => ⟨rfl, rfl⟩
    | exact fun _ => ⟨rfl, rfl, rfl, rfl⟩
    | exact Eq.refl _
    | exact ⟨rfl, rfl, rfl⟩
    | assumption
    | with_reducible apply Orderly.trans (k := Orderly.examine ..)
    | with_reducible apply Orderly.trans (k := Orderly.onTime _ ?_)
    | split
    | intro _ _
    | intro _

theorem Orderly.holdChar (ch : RxChar) (s : State) : Orderly s (State.holdChar ch s) := by
  unfold State.holdChar
  try dsimp only
  repeat' first
    | with_reducible apply Orderly.refl
    | exact fun _ => rfl
    | exact fun _ => ⟨rfl, rfl⟩
    | exact fun _ => ⟨rfl, rfl, rfl, rfl⟩
    | exact Eq.refl _
    | exact ⟨rfl, rfl, rfl⟩
    | assumption
    | with_reducible apply Orderly.trans (k := Orderly.dropAssembly ..)
    | with_reducible apply Orderly.trans (k := Orderly.onCounters ..)
    | with_reducible apply Orderly.trans (k := Orderly.onTime _ ?_)
    | split
    | intro _ _
    | intro _

theorem Orderly.receive (ch : RxChar) (waits : Bool) (s : State) : Orderly s (State.receive ch waits s) := by
  unfold State.receive
  try dsimp only
  repeat' first
    | with_reducible apply Orderly.refl
    | exact fun _ => rfl
    | exact fun _ => ⟨rfl, rfl⟩
    | exact fun _ => ⟨rfl, rfl, rfl, rfl⟩
    | exact Eq.refl _
    | exact ⟨rfl, rfl, rfl⟩
    | assumption
    | with_reducible apply Orderly.trans (k := Orderly.holdChar ..)
    | with_reducible apply Orderly.trans (k := Orderly.examineHeld ..)
    | with_reducible apply Orderly.trans (k := Orderly.examine ..)
    | with_reducible apply Orderly.trans (k := (Calm.whole ..).steady.orderly)
    | split
    | intro _ _
    | intro _

theorem Orderly.telegramTimeout (s : State) : Orderly s (State.telegramTimeout s) := by
  unfold State.telegramTimeout
  try dsimp only
  repeat' first
    | with_reducible apply Orderly.refl
    | exact fun _ => rfl
    | exact fun _ => ⟨rfl, rfl⟩
    | exact fun _ => ⟨rfl, rfl, rfl, rfl⟩
    | exact Eq.refl _
    | exact ⟨rfl, rfl, rfl⟩
    | assumption
    | with_reducible apply Orderly.trans (k := Orderly.formatError ..)
    | split
    | intro _ _
    | intro _

theorem Orderly.installDst (rule : DstRule) (s : State) : Orderly s (State.installDst rule s) := by
  unfold State.installDst
  try dsimp only
  repeat' first
    | with_reducible apply Orderly.refl
    | exact fun _ => rfl
    | exact fun _ => ⟨rfl, rfl⟩
    | exact fun _ => ⟨rfl, rfl, rfl, rfl⟩
    | exact Eq.refl _
    | exact ⟨rfl, rfl, rfl⟩
    | assumption
    | with_reducible apply Orderly.trans (k := (Steady.handMove ..).orderly)
    | with_reducible apply Orderly.trans (k := Orderly.onTime _ ?_)
    | split
    | intro _ _
    | intro _

/-! ### Installs while RUNNING -/

theorem Orderly.installCalendar (d : CalData) (s : State) : Orderly s (s.installCalendar d) := by
  unfold State.installCalendar
  dsimp only
  with_reducible apply Orderly.trans (k := Orderly.installDst ..)
  with_reducible apply Orderly.trans (k := (Steady.calCalendarInstalled ..).orderly)
  with_reducible apply Orderly.trans (k := (Calm.bellInstall ..).steady.orderly)
  exact (Steady.onCal _ _).orderly

theorem Orderly.installRunning (d : SectionData) (s : State) : Orderly s (s.installRunning d) := by
  unfold State.installRunning
  split
  · exact (Steady.installSite _ _).orderly
  · with_reducible apply Orderly.trans (k := (Calm.handDayQuiet ..).steady.orderly)
    exact (Steady.onRouter _ rfl).orderly
  · exact (Steady.onTone _ _).orderly
  · with_reducible apply Orderly.trans (k := (Calm.calProgramsInstalled ..).steady.orderly)
    with_reducible apply Orderly.trans (k := (Calm.bellInstall ..).steady.orderly)
    exact (Steady.onBell _ _).orderly
  · exact Orderly.installCalendar _ _
  · with_reducible apply Orderly.trans (k := (OnLines.installLines ..).steady.orderly)
    exact (OnLines.setThresholds _ _ _).steady.orderly
  · exact (Steady.onDrill _ _).orderly

theorem Orderly.judgeLoaded (k : SectKind) (bytes : List Byte) (s : State) : Orderly s (s.judgeLoaded k bytes).1 := by
  unfold State.judgeLoaded
  split
  · with_reducible apply Orderly.refl
  · split
    · with_reducible apply Orderly.refl
    · unfold State.installLoaded
      split
      · dsimp only
        with_reducible apply Orderly.trans (k := Orderly.installRunning ..)
        exact Orderly.onPower _ (Eq.refl _)
      · with_reducible apply Orderly.refl

/-! ### Power -/

theorem Orderly.setPower (p : PowerState) (s : State) : Orderly s (s.setPower p) := Orderly.onPower _ (Eq.refl _)

theorem Orderly.keep (s : State) : Orderly s s.keep := by
  unfold State.keep
  repeat' split
  all_goals first | with_reducible apply Orderly.refl | exact Orderly.onPower _ (Eq.refl _)

theorem Orderly.firstKeySample (s : State) : Orderly s (State.firstKeySample s) := by
  unfold State.firstKeySample
  try dsimp only
  repeat' first
    | with_reducible apply Orderly.refl
    | exact fun _ => rfl
    | exact fun _ => ⟨rfl, rfl⟩
    | exact fun _ => ⟨rfl, rfl, rfl, rfl⟩
    | exact Eq.refl _
    | exact ⟨rfl, rfl, rfl⟩
    | assumption
    | with_reducible apply Orderly.each
    | with_reducible apply Orderly.trans (k := (Steady.onConsole ..).orderly)
    | split
    | intro _ _
    | intro _

theorem Orderly.enterReserve (cause : PowerCause) (s : State) : Orderly s (State.enterReserve cause s) := by
  unfold State.enterReserve
  try dsimp only
  repeat' first
    | with_reducible apply Orderly.refl
    | exact fun _ => rfl
    | exact fun _ => ⟨rfl, rfl⟩
    | exact fun _ => ⟨rfl, rfl, rfl, rfl⟩
    | exact Eq.refl _
    | exact ⟨rfl, rfl, rfl⟩
    | assumption
    | with_reducible apply Orderly.each
    | with_reducible apply Orderly.trans (k := (OnLines.cutImpulse ..).steady.orderly)
    | with_reducible apply Orderly.trans (k := Orderly.setPower ..)
    | with_reducible apply Orderly.trans (k := (Calm.sessionsReserve ..).steady.orderly)
    | with_reducible apply Orderly.trans (k := (OnLines.lineReserve ..).steady.orderly)
    | with_reducible apply Orderly.trans (k := Orderly.keep ..)
    | with_reducible apply Orderly.trans (k := (Calm.report ..).steady.orderly)
    | split
    | intro _ _
    | intro _

theorem Orderly.returnNormal (s : State) : Orderly s (State.returnNormal s) := by
  unfold State.returnNormal
  try dsimp only
  repeat' first
    | with_reducible apply Orderly.refl
    | exact fun _ => rfl
    | exact fun _ => ⟨rfl, rfl⟩
    | exact fun _ => ⟨rfl, rfl, rfl, rfl⟩
    | exact Eq.refl _
    | exact ⟨rfl, rfl, rfl⟩
    | assumption
    | with_reducible apply Orderly.trans (k := Orderly.setPower ..)
    | with_reducible apply Orderly.trans (k := (OnLines.lineMainsBack ..).steady.orderly)
    | with_reducible apply Orderly.trans (k := (Calm.bellMainsBack ..).steady.orderly)
    | with_reducible apply Orderly.trans (k := (Calm.report ..).steady.orderly)
    | split
    | intro _ _
    | intro _

theorem Orderly.enterRetained (s : State) : Orderly s s.enterRetained := by
  unfold State.enterRetained
  dsimp only
  with_reducible apply Orderly.trans (k := Orderly.keep ..)
  refine Orderly.trans ?_ (Orderly.onRh _ id)
  with_reducible apply Orderly.trans (k := (Calm.report ..).steady.orderly)
  refine Orderly.trans ?_ (Orderly.onPower _ (Eq.refl _))
  with_reducible apply Orderly.trans (k := Orderly.setPower ..)
  with_reducible apply Orderly.trans (k := (Steady.onWork ..).orderly)
  with_reducible apply Orderly.trans (k := (Steady.onScan ..).orderly)
  refine Orderly.trans ?_ (Orderly.onTime _ (Eq.refl _))
  exact (Calm.sessionsRetained _).steady.orderly

theorem Orderly.mainsLeft (cause : PowerCause) (s : State) : Orderly s (State.mainsLeft cause s) := by
  unfold State.mainsLeft
  try dsimp only
  repeat' first
    | with_reducible apply Orderly.refl
    | exact fun _ => rfl
    | exact fun _ => ⟨rfl, rfl⟩
    | exact fun _ => ⟨rfl, rfl, rfl, rfl⟩
    | exact Eq.refl _
    | exact ⟨rfl, rfl, rfl⟩
    | assumption
    | with_reducible apply Orderly.trans (k := Orderly.enterReserve ..)
    | with_reducible apply Orderly.trans (k := (Calm.whole ..).steady.orderly)
    | with_reducible apply Orderly.trans (k := Orderly.setPower ..)
    | split
    | intro _ _
    | intro _

theorem judgeEighth_spine (c : Nat) (p : PowerMon) : (p.judgeEighth c).spine = p.spine := by
  unfold PowerMon.judgeEighth
  repeat' split
  all_goals exact Eq.refl _

theorem window_spine (now c : Nat) (p : PowerMon) : (p.window now c).spine = p.spine := by
  unfold PowerMon.window
  dsimp only
  repeat' split
  all_goals exact Eq.refl _

theorem Orderly.sampleBattery (s : State) : Orderly s s.sampleBattery := by
  unfold State.sampleBattery
  split
  · exact Orderly.enterRetained s
  · exact Orderly.refl s

theorem Orderly.windowEnd (s : State) : Orderly s s.windowEnd := by
  unfold State.windowEnd
  split
  · exact Orderly.refl s
  · split
    · dsimp only
      split
      · with_reducible apply Orderly.trans (k := Orderly.mainsLeft ..)
        exact (Orderly.onPower _ (Eq.refl _)).trans (Orderly.onPower _ (Eq.refl _))
      · exact Orderly.onPower _ (Eq.refl _)
    · exact Orderly.refl s

/-! ### Starts -/

/-- What a start leaves of the state before it, and the invariants it sets up (R165). -/
structure Begun (s t : State) : Prop where
  pending  : t.pending = s.pending
  supplied : t.power.supplied = s.power.supplied
  eeprom   : t.power.eeprom = s.power.eeprom
  part     : t.power.part = .starting
  elapsed  : t.time.elapsed = 0
  wf       : Mem.wf t.mem
  modes    : t.modesRight
  grants   : t.line.grants = []
  pages    : t.rh.fits

/-- A step of a start: it keeps all that Begun says. -/
abbrev KeepsBegun (t u : State) : Prop := ∀ s, Begun s t → Begun s u

theorem zonesAtStart_modes (d : SiteData) (z : ZoneId) :
    (d.zonesAtStart.at z).effective = (d.zonesAtStart.at z).compute := by
  simp only [SiteData.zonesAtStart, tab_tabulate_at, Zone.compute, Zone.start, Bool.or_self, Bool.false_and,
    Bool.false_eq_true, if_false]

theorem begun_installAtStart (d : SectionData) (t : State) : KeepsBegun t (t.installAtStart d) := by
  intro s h
  unfold State.installAtStart
  split
  · rename_i d
    refine { h with modes := ?_ }
    intro z
    exact zonesAtStart_modes d z
  · exact { h with }
  · exact { h with }
  · exact { h with }
  · exact { h with }
  · exact { h with }
  · exact { h with }

theorem begun_readSection (a : BitVec 8) (k : SectKind) (t : State) : KeepsBegun t (t.readSection a k) := by
  intro s h
  unfold State.readSection
  generalize sectionOutcome t.power.eeprom a k = r
  obtain ⟨out, bytes⟩ := r
  dsimp only
  split
  · exact begun_installAtStart _ _ s { h with }
  · exact { h with }

theorem begun_readImage (a : BitVec 8) (t : State) : KeepsBegun t (t.readImage a) := by
  intro s h
  unfold State.readImage
  have g : ∀ (xs : List SectKind) (u : State), Begun s u → Begun s (u.each xs (State.readSection a)) := by
    intro xs
    induction xs with
    | nil => exact fun u hu => hu
    | cons x xs ih => exact fun u hu => ih _ (begun_readSection a x u s hu)
  exact g _ _ { h with }

theorem begun_judgeStartDst (valid : Bool) (t : State) : KeepsBegun t (t.judgeStartDst valid) := by
  intro s h
  unfold State.judgeStartDst
  split
  · exact { h with }
  · exact { h with }

theorem begun_takeRetained (valid : Bool) (t : State) : KeepsBegun t (t.takeRetained valid) := by
  intro s h
  unfold State.takeRetained
  split
  · exact { h with }
  · exact h

theorem begun_sampleStart (p : Pins) (t : State) : KeepsBegun t (t.sampleStart p) := by
  intro s h
  exact { h with }

theorem timeAtStart_elapsed (valid : Bool) (f : RetFields) (due : Bool) : (timeAtStart valid f due).elapsed = 0 := by
  unfold timeAtStart
  split <;> exact Eq.refl _

theorem router_start_modes (z : ZoneId) :
    (Router.start.zones.at z).effective = (Router.start.zones.at z).compute := by
  simp only [Router.start, tab_all_at]
  rfl

theorem reqHandler_start_fits (rev : Word) : (ReqHandler.start rev).fits := by
  refine ⟨Nat.zero_le _, ?_⟩
  intro c hc
  cases hc

theorem begun_freshBlocks (cause : StartCause) (s : State) :
    Begun s (((s.onPower (PowerMon.begin cause s.power.retained.valid)).freshBlocks
      s.power.retained.valid).writeStartHeader false) where
  pending := rfl
  supplied := rfl
  eeprom := rfl
  part := rfl
  elapsed := timeAtStart_elapsed _ _ _
  wf := wf_write _ _ _ wf_nil
  modes := by
    intro z
    show (Tab.at Router.start.zones z).effective = (Tab.at Router.start.zones z).compute
    exact router_start_modes z
  grants := rfl
  pages := by
    show (ReqHandler.start s.rh.revision).fits
    exact reqHandler_start_fits _

/-- A start (R165): the part is STARTING and the elapsed count 0; the queue, the supply and the EEPROM stand. -/
theorem Begun.start (cause : StartCause) (p : Pins) (s : State) : Begun s (s.start cause p) := by
  unfold State.start
  dsimp only
  apply begun_sampleStart
  apply begun_takeRetained
  apply begun_judgeStartDst
  apply begun_readImage
  exact begun_freshBlocks cause s

theorem Begun.restarts {s t : State} (h : Begun s t) : Restarts s t :=
  ⟨h.pending, h.supplied, .inr ⟨h.part, h.elapsed⟩, fun x => ⟨h.wf, by rw [h.eeprom]; exact x.2⟩, fun _ => h.modes,
    fun _ => by show t.line.grants.length ≤ _; rw [h.grants]; exact Nat.zero_le _, fun _ => h.pages⟩

theorem Restarts.start (cause : StartCause) (p : Pins) (s : State) : Restarts s (s.start cause p) :=
  (Begun.start cause p s).restarts

theorem Orderly.keepValid (s : State) : Orderly s s.keepValid := by
  unfold State.keepValid
  split
  · exact Orderly.keep s
  · exact Orderly.refl s

theorem Restarts.mainsCame (s : State) : Restarts s s.mainsCame := by
  unfold State.mainsCame
  split
  · exact Restarts.refl s
  · split
    · exact ((Orderly.returnNormal s).trans (Calm.whole _).steady.orderly).restarts
    · exact (Orderly.setPower _ s).restarts
  · split
    · exact ((Orderly.keepValid s).trans (Orderly.onPower _ (Eq.refl _))).restarts.trans (Restarts.start _ _ _)
    · exact Restarts.refl s

theorem Restarts.judgeMains (s : State) : Restarts s s.judgeMains := by
  unfold State.judgeMains
  dsimp only
  have h : Orderly s (s.onPower fun p =>
      ((p.judgeEighth s.power.crossings).window s.now s.power.crossings |> fun q => { q with crossings := 0 })) := by
    refine Orderly.onPower _ ?_
    show (PowerMon.window _ _ _).spine = _
    rw [window_spine, judgeEighth_spine]
  split
  · exact (h.trans (Orderly.mainsLeft _ _)).restarts
  · split
    · exact h.restarts.trans (Restarts.mainsCame _)
    · exact h.restarts

theorem Restarts.judgePower (batteryFirst : Bool) (s : State) : Restarts s (s.judgePower batteryFirst) := by
  unfold State.judgePower
  split
  · exact (Orderly.sampleBattery _).restarts.trans (Restarts.judgeMains _)
  · exact (Restarts.judgeMains _).trans (Orderly.sampleBattery _).restarts

/-! ### Requests -/

theorem wf_answer (i : CellId) (kind : Nat) (tag count : Word) (a : Answer) (m : Mem) (h : Mem.wf m) :
    Mem.wf (m.answer i kind tag count a) := wf_write _ _ _ (wf_write _ _ _ (wf_write _ _ _ h))

theorem Orderly.complete (i : CellId) (kind : Nat) (tag : Word) (a : Answer) (s : State) :
    Orderly s (s.complete i kind tag a) := by
  unfold State.complete
  dsimp only
  with_reducible apply Orderly.trans (k := (Calm.notify ..).steady.orderly)
  exact { Orderly.refl s with memories := fun x => ⟨wf_answer _ _ _ _ _ _ x.1, x.2⟩ }

theorem Orderly.goInFlight (i : CellId) (op : StoreOp) (s : State) : Orderly s (s.goInFlight i op) :=
  { Orderly.refl s with }

theorem Orderly.takeLogCopy (i : CellId) (tag : Word) (offset : Nat) (s : State) :
    Orderly s (s.takeLogCopy i tag offset).1 := by
  unfold State.takeLogCopy refuse
  repeat' split
  all_goals first | with_reducible apply Orderly.refl | exact Orderly.goInFlight _ _ _

theorem Orderly.takeLoad (i : CellId) (tag : Word) (kind offset length : Nat) (s : State) :
    Orderly s (s.takeLoad i tag kind offset length).1 := by
  unfold State.takeLoad refuse
  repeat' split
  all_goals first | with_reducible apply Orderly.refl | exact Orderly.goInFlight _ _ _

theorem Orderly.takeSave (i : CellId) (tag : Word) (s : State) : Orderly s (s.takeSave i tag).1 := by
  unfold State.takeSave refuse
  split
  · with_reducible apply Orderly.refl
  · exact Orderly.goInFlight _ _ _

theorem Restarts.route (i : CellId) (k : ReqKind) (r : Request) (s : State) : Restarts s (s.route i k r).1 := by
  unfold State.route answered
  split
  · exact (Orderly.takeTimeSet _ _).restarts
  · exact (Steady.takeDayOverride _ _ _ _ _ _).orderly.restarts
  · exact (Steady.takeAdmission _ _ _ _ _ _).orderly.restarts
  · exact (Calm.takeAnnounce _ _ _ _).steady.orderly.restarts
  · exact (Calm.takeCancel _ _ _ _).steady.orderly.restarts
  · exact (Steady.takeConsoleSet _ _ _ _).orderly.restarts
  · exact (Calm.takeDrillStart _ _ _).steady.orderly.restarts
  · exact (Calm.takeBuildings _ _ Calm.drillAbortOne).steady.orderly.restarts
  · exact (Calm.takeBuildings _ _ Calm.allClearOne).steady.orderly.restarts
  · exact (Calm.takeBuildings _ _ Calm.hushOne).steady.orderly.restarts
  · exact (Orderly.takeLogCopy _ _ _ _).restarts
  · exact (OnLines.takeSetDisplay _ _ _ _).steady.orderly.restarts
  · exact (OnLines.takeLineControl _ _ _).steady.orderly.restarts
  · exact (Orderly.takeLoad _ _ _ _ _ _).restarts
  · exact (Orderly.takeSave _ _ _).restarts
  · exact (Orderly.keepValid s).restarts.trans (Restarts.start _ _ _)

theorem Restarts.judgeRequest (i : CellId) (r : Request) (s : State) : Restarts s (s.judgeRequest i r).1 := by
  unfold State.judgeRequest refuse
  split
  · exact Restarts.refl s
  · exact Restarts.route _ _ _ _

theorem Calm.afterTake (kind : Nat) (c : Code) (s : State) : Calm s (s.afterTake kind c) := by
  unfold State.afterTake
  repeat' split
  all_goals first | with_reducible apply Calm.refl | with_reducible apply Calm.whole

theorem Restarts.carryOut (i : CellId) (r : Request) (s : State) : Restarts s (s.carryOut i r) := by
  unfold State.carryOut
  have h := Restarts.judgeRequest i r s
  split <;> rename_i hx <;> rw [hx] at h
  · with_reducible apply Restarts.trans (k := (Orderly.complete ..).restarts)
    with_reducible apply Restarts.trans (k := (Calm.afterTake ..).steady.orderly.restarts)
    exact h
  · exact h

theorem Restarts.sweepCell (i : CellId) (s : State) : Restarts s (s.sweepCell i) := by
  unfold State.sweepCell
  split
  · exact Restarts.refl s
  · dsimp only
    split
    · exact (Orderly.onMem _ _ s).restarts.trans (Restarts.carryOut _ _ _)
    · exact Restarts.refl s

theorem Restarts.sweepPass (s : State) : Restarts s s.sweepPass := by
  unfold State.sweepPass
  refine Restarts.each _ _ (Restarts.refl s) fun i t => ?_
  split
  · exact Restarts.sweepCell _ _
  · exact Restarts.refl t

theorem Orderly.beginSweep (s : State) : Orderly s s.beginSweep := Orderly.onRh _ id

theorem Orderly.askDuring (ws : List MemWrite) (s : State) : Orderly s (s.askDuring ws) :=
  (Orderly.hostWrites ws s).trans (Orderly.onRh _ id)

theorem Orderly.drainQueue (s : State) : Orderly s s.drainQueue := (Reported.drainQueue s).calm.steady.orderly

theorem Orderly.endSweep (s : State) : Orderly s s.endSweep := by
  unfold State.endSweep
  dsimp only
  split
  · exact Orderly.onRh _ id
  · exact (Orderly.onRh _ id).trans (Orderly.drainQueue _)

theorem Restarts.sweepWith (asks : List SweepAsks) : ∀ s : State, Restarts s (s.sweepWith asks) := by
  induction asks with
  | nil =>
    intro s
    have h := (Orderly.beginSweep s).restarts.trans (Restarts.sweepPass _)
    unfold State.sweepWith
    split
    · exact h.trans (Orderly.endSweep _).restarts
    · exact h
  | cons ws more ih =>
    intro s
    have h := (Orderly.beginSweep s).restarts.trans (Restarts.sweepPass _)
    unfold State.sweepWith
    dsimp only
    split
    · refine Restarts.trans ?_ (ih _)
      refine h.trans (Orderly.restarts ?_)
      with_reducible apply Orderly.trans (k := Orderly.endSweep ..)
      exact Orderly.each _ _ (Orderly.refl _) Orderly.askDuring
    · exact h.trans (Orderly.hostWrites _ _).restarts

theorem Restarts.askSweep (asks : List SweepAsks) (s : State) : Restarts s (s.askSweep asks) := by
  unfold State.askSweep
  split
  · exact Restarts.sweepWith _ _
  · exact (Orderly.hostWrites _ _).restarts

theorem wf_post (i : CellId) (k : ReqKind) (tag : Word) (params : List Byte) (m : Mem) (h : Mem.wf m) :
    Mem.wf (m.post i k tag params) := by
  unfold Mem.post
  exact wf_write _ _ _ (wf_write _ _ _ (wf_write _ _ _ h))

theorem Restarts.postAndTake (i : CellId) (k : ReqKind) (tag : Word) (params : List Byte) (s : State) :
    Restarts s (s.postAndTake i k tag params) := by
  unfold State.postAndTake
  have h : Orderly s (s.onMem (Mem.post i k tag params)) :=
    { Orderly.refl s with memories := fun x => ⟨wf_post _ _ _ _ _ x.1, x.2⟩ }
  split
  · dsimp only
    split
    · exact h.restarts.trans (Restarts.sweepCell _ _)
    · exact h.restarts
  · exact Restarts.refl s

/-! ### Store operations in flight -/

theorem Orderly.finishOp (i : CellId) (k : ReqKind) (tag : Word) (a : Answer) (s : State) :
    Orderly s (s.finishOp i k tag a) := by
  unfold State.finishOp
  with_reducible apply Orderly.trans (k := Orderly.complete ..)
  exact Orderly.onPower _ (Eq.refl _)

theorem Orderly.storeTick (s : State) : Orderly s s.storeTick := by
  unfold State.storeTick
  split
  · exact Orderly.onPower _ (Eq.refl _)
  · exact Orderly.refl s

theorem Orderly.logCopyWrite (s : State) : Orderly s s.logCopyWrite := by
  unfold State.logCopyWrite
  split
  · split
    · exact (Orderly.onMem _ _ s).trans (Orderly.finishOp _ _ _ _ _)
    · exact Orderly.refl s
  · exact Orderly.refl s

theorem Orderly.saveNothingDone (s : State) : Orderly s s.saveNothingDone := by
  unfold State.saveNothingDone
  split
  · split
    · exact Orderly.finishOp _ _ _ _ _
    · exact Orderly.refl s
  · exact Orderly.refl s

theorem Orderly.loadCopyEnd (s : State) : Orderly s s.loadCopyEnd := by
  unfold State.loadCopyEnd
  split
  · split
    · dsimp only
      with_reducible apply Orderly.trans (k := Orderly.finishOp ..)
      split
      · with_reducible apply Orderly.trans (k := (Calm.whole ..).steady.orderly)
        with_reducible apply Orderly.judgeLoaded
      · with_reducible apply Orderly.judgeLoaded
    · exact Orderly.refl s
  · exact Orderly.refl s

theorem Orderly.pageDone (i : CellId) (tag : Word) (rest : List (Nat × List Byte)) (sections bytes : Nat) (s : State) :
    Orderly s (s.pageDone i tag rest sections bytes) := by
  unfold State.pageDone
  split
  · exact (Orderly.onPower _ (Eq.refl _)).trans (Orderly.finishOp _ _ _ _ _)
  · exact Orderly.onPower _ (Eq.refl _)

theorem Orderly.storeFault (i : CellId) (tag : Word) (offset : Nat) (s : State) :
    Orderly s (s.storeFault i tag offset) := Orderly.finishOp _ _ _ _ _

theorem Orderly.savePageWrite (result : PageResult) (s : State) : Orderly s (s.savePageWrite result) := by
  unfold State.savePageWrite
  split
  · split
    · split
      · exact (Orderly.onEeprom _ _ s).trans (Orderly.pageDone _ _ _ _ _ _)
      · exact Orderly.storeFault _ _ _ _
      · dsimp only
        split
        · exact (Orderly.onEeprom _ _ s).trans (Orderly.pageDone _ _ _ _ _ _)
        · exact (Orderly.onEeprom _ _ s).trans (Orderly.storeFault _ _ _ _)
    · exact Orderly.refl s
  · exact Orderly.refl s

theorem Orderly.pageAgeClose (s : State) : Orderly s s.pageAgeClose := by
  unfold State.pageAgeClose
  split
  · split
    · rename_i c _ _
      have h := (Reported.closePage c s).calm.steady.orderly
      dsimp only
      split
      · exact h
      · exact h.trans (Orderly.drainQueue _)
    · exact Orderly.refl s
  · exact Orderly.refl s

/-! ### The end of an eighth -/

theorem Orderly.dueTime (s : State) : Orderly s (State.dueTime s) := by
  unfold State.dueTime
  try dsimp only
  repeat' first
    | with_reducible apply Orderly.refl
    | exact fun _ => rfl
    | exact fun _ => ⟨rfl, rfl⟩
    | exact fun _ => ⟨rfl, rfl, rfl, rfl⟩
    | exact Eq.refl _
    | exact ⟨rfl, rfl, rfl⟩
    | assumption
    | with_reducible apply Orderly.trans (k := Orderly.secondBoundary ..)
    | with_reducible apply Orderly.trans (k := Orderly.lockedEnd ..)
    | with_reducible apply Orderly.trans (k := Orderly.holdoverEnd ..)
    | with_reducible apply Orderly.trans (k := Orderly.telegramTimeout ..)
    | split
    | intro _ _
    | intro _

theorem Orderly.overrideExpiry (z : ZoneId) (s : State) : Orderly s (s.overrideExpiry z) := by
  unfold State.overrideExpiry
  split
  · with_reducible apply Orderly.trans (k := (Calm.whole ..).steady.orderly)
    with_reducible apply (Steady.expireOverride ..).orderly
  · exact Orderly.refl s

theorem Orderly.dueSessions (s : State) : Orderly s (State.dueSessions s) := by
  unfold State.dueSessions
  try dsimp only
  repeat' first
    | with_reducible apply Orderly.refl
    | exact fun _ => rfl
    | exact fun _ => ⟨rfl, rfl⟩
    | exact fun _ => ⟨rfl, rfl, rfl, rfl⟩
    | exact Eq.refl _
    | exact ⟨rfl, rfl, rfl⟩
    | assumption
    | with_reducible apply Orderly.each
    | with_reducible apply Orderly.trans (k := Orderly.overrideExpiry ..)
    | with_reducible apply Orderly.trans (k := (Calm.crosspoint ..).steady.orderly)
    | with_reducible apply Orderly.trans (k := (Calm.deferExpire ..).steady.orderly)
    | with_reducible apply Orderly.trans (k := (Calm.giveUp ..).steady.orderly)
    | with_reducible apply Orderly.trans (k := (Calm.durationEnd ..).steady.orderly)
    | with_reducible apply Orderly.trans (k := (Calm.pauseAbandon ..).steady.orderly)
    | with_reducible apply Orderly.trans (k := (Calm.playingRise ..).steady.orderly)
    | with_reducible apply Orderly.trans (k := (Calm.playingFall ..).steady.orderly)
    | with_reducible apply Orderly.trans (k := (Calm.cueTimeout ..).steady.orderly)
    | with_reducible apply Orderly.trans (k := (Calm.phaseEnd ..).steady.orderly)
    | split
    | intro _ _
    | intro _

theorem Orderly.dueKeys (s : State) : Orderly s (State.dueKeys s) := by
  unfold State.dueKeys
  try dsimp only
  repeat' first
    | with_reducible apply Orderly.refl
    | exact fun _ => rfl
    | exact fun _ => ⟨rfl, rfl⟩
    | exact fun _ => ⟨rfl, rfl, rfl, rfl⟩
    | exact Eq.refl _
    | exact ⟨rfl, rfl, rfl⟩
    | assumption
    | with_reducible apply Orderly.each
    | with_reducible apply Orderly.trans (k := (Steady.emergencyChange ..).orderly)
    | with_reducible apply Orderly.trans (k := (Steady.pttRelease ..).orderly)
    | with_reducible apply Orderly.trans (k := (Steady.pttPress ..).orderly)
    | split
    | intro _ _
    | intro _

theorem Orderly.dueBuildings (s : State) : Orderly s (State.dueBuildings s) := by
  unfold State.dueBuildings
  try dsimp only
  repeat' first
    | with_reducible apply Orderly.refl
    | exact fun _ => rfl
    | exact fun _ => ⟨rfl, rfl⟩
    | exact fun _ => ⟨rfl, rfl, rfl, rfl⟩
    | exact Eq.refl _
    | exact ⟨rfl, rfl, rfl⟩
    | assumption
    | with_reducible apply Orderly.each
    | with_reducible apply Orderly.trans (k := (Calm.contactOpens ..).steady.orderly)
    | with_reducible apply Orderly.trans (k := (Calm.contactCloses ..).steady.orderly)
    | with_reducible apply Orderly.trans (k := (Calm.whole ..).steady.orderly)
    | with_reducible apply Orderly.trans (k := (Calm.musterReleases ..).steady.orderly)
    | with_reducible apply Orderly.trans (k := (Calm.musterPresses ..).steady.orderly)
    | with_reducible apply Orderly.trans (k := (Calm.prealertExpire ..).steady.orderly)
    | with_reducible apply Orderly.trans (k := (Calm.limitExpire ..).steady.orderly)
    | with_reducible apply Orderly.trans (k := (Calm.autoExpire ..).steady.orderly)
    | split
    | intro _ _
    | intro _

theorem OnLines.dueLineEnds (s : State) : OnLines s s.dueLineEnds :=
  OnLines.each _ _ (OnLines.refl s) fun l t => (OnLines.frameOverdue l t).trans (OnLines.impulseEnd l _)

theorem OnLines.dueLineStarts (s : State) : OnLines s s.dueLineStarts :=
  OnLines.each _ _ (OnLines.refl s) fun l t => (OnLines.fastImpulse l t).trans (OnLines.probeTimerExpire l _)

/-- Leaving an instant makes select requests and starts a scan, and does nothing else. -/
theorem OnLines.leaveInstant (s : State) : OnLines s s.leaveInstant := by
  unfold State.leaveInstant
  dsimp only
  have h := OnLines.each _ (allOf 8) (OnLines.refl s) OnLines.askSelect
  split
  · exact h.trans (OnLines.onScan _ _)
  · exact h

theorem Orderly.atInstant (s : State) : Orderly s s.atInstant := Orderly.onTime _ (Eq.refl _)

theorem Orderly.between (s : State) : Orderly s s.between :=
  (OnLines.leaveInstant s).steady.orderly.trans (Orderly.onTime _ (Eq.refl _))

theorem Orderly.dueStore (s : State) : Orderly s (State.dueStore s) := by
  unfold State.dueStore
  try dsimp only
  repeat' first
    | with_reducible apply Orderly.refl
    | exact fun _ => rfl
    | exact fun _ => ⟨rfl, rfl⟩
    | exact fun _ => ⟨rfl, rfl, rfl, rfl⟩
    | exact Eq.refl _
    | exact ⟨rfl, rfl, rfl⟩
    | assumption
    | with_reducible apply Orderly.trans (k := Orderly.logCopyWrite ..)
    | with_reducible apply Orderly.trans (k := Orderly.loadCopyEnd ..)
    | with_reducible apply Orderly.trans (k := Orderly.saveNothingDone ..)
    | with_reducible apply Orderly.trans (k := Orderly.windowEnd ..)
    | with_reducible apply Orderly.trans (k := Orderly.pageAgeClose ..)
    | split
    | intro _ _
    | intro _

theorem Orderly.dueAll (s : State) : Orderly s (State.dueAll s) := by
  unfold State.dueAll
  try dsimp only
  repeat' first
    | with_reducible apply Orderly.refl
    | exact fun _ => rfl
    | exact fun _ => ⟨rfl, rfl⟩
    | exact fun _ => ⟨rfl, rfl, rfl, rfl⟩
    | exact Eq.refl _
    | exact ⟨rfl, rfl, rfl⟩
    | assumption
    | with_reducible apply Orderly.trans (k := Orderly.dueTime ..)
    | with_reducible apply Orderly.trans (k := Orderly.dueBuildings ..)
    | with_reducible apply Orderly.trans (k := Orderly.dueKeys ..)
    | with_reducible apply Orderly.trans (k := Orderly.dueSessions ..)
    | with_reducible apply Orderly.trans (k := (OnLines.dueLineEnds ..).steady.orderly)
    | with_reducible apply Orderly.trans (k := (OnLines.dueLineStarts ..).steady.orderly)
    | with_reducible apply Orderly.trans (k := (OnLines.leaveInstant ..).steady.orderly)
    | with_reducible apply Orderly.trans (k := Orderly.atInstant ..)
    | with_reducible apply Orderly.trans (k := Orderly.dueStore ..)
    | split
    | intro _ _
    | intro _

theorem Orderly.judgeFrame (s : State) : Orderly s (State.judgeFrame s) := by
  unfold State.judgeFrame
  split
  · exact ((Calm.noteSelections s).trans (Calm.onRouter _ rfl)).steady.orderly
  · exact Orderly.refl s

theorem Orderly.scanTick (selectFirst : Bool) (s : State) : Orderly s (State.scanTick selectFirst s) := by
  unfold State.scanTick
  try dsimp only
  repeat' first
    | with_reducible apply Orderly.refl
    | exact fun _ => rfl
    | exact fun _ => ⟨rfl, rfl⟩
    | exact fun _ => ⟨rfl, rfl, rfl, rfl⟩
    | exact Eq.refl _
    | exact ⟨rfl, rfl, rfl⟩
    | assumption
    | with_reducible apply Orderly.each
    | with_reducible apply Orderly.trans (k := (OnLines.askedProbe ..).steady.orderly)
    | with_reducible apply Orderly.trans (k := (OnLines.askSelect ..).steady.orderly)
    | with_reducible apply Orderly.trans (k := (Steady.onScan ..).orderly)
    | split
    | intro _ _
    | intro _

theorem Orderly.sampleInputs (s : State) : Orderly s s.sampleInputs := by
  unfold State.sampleInputs
  split
  · refine Orderly.each _ _ ?_ fun c t =>
      (Steady.onConsole c (Console.sample s.pins c) t).orderly
    exact Orderly.each _ _ (Orderly.refl s) fun b t => (Calm.onBuilding _ _ _).steady.orderly
  · split
    · exact Orderly.each _ _ (Orderly.refl s) fun b t => (Calm.onBuilding _ _ _).steady.orderly
    · exact Orderly.refl s

/-- A sample of the players keeps their PAUSE beside PLAYING, and changes nothing else of them (R81). -/
theorem samplePlayers_player (p : PlayerId) (s : State) :
    s.samplePlayers.player p = if s.up then { s.player p with pauseAtLast := (s.player p).pause } else s.player p := by
  unfold State.samplePlayers
  split
  · simp [State.player]
  · rfl

/-- A sample of the players leaves all but the router's players. -/
theorem samplePlayers_frame (s : State) :
    s.samplePlayers = { s with router := { s.router with players := s.samplePlayers.router.players } } := by
  unfold State.samplePlayers
  split <;> rfl

theorem Orderly.secondAt (secondFirst : Bool) (s : State) : Orderly s (s.secondAt secondFirst) := by
  unfold State.secondAt
  split
  · exact Orderly.secondBoundary s
  · exact Orderly.refl s

theorem Restarts.boundaryWork (inp : BoundaryInput) (s : State) : Restarts s (s.boundaryWork inp) := by
  unfold State.boundaryWork
  dsimp only
  have h : Restarts s (if s.up then s.toneTick else s) := by
    split
    · exact (Calm.toneTick s).steady.orderly.restarts
    · exact Restarts.refl s
  refine Restarts.trans ?_ (Orderly.scanTick _ _).restarts
  refine Restarts.trans ?_ (Orderly.storeTick _).restarts
  refine Restarts.trans ?_ (Orderly.sampleInputs _).restarts
  exact h.trans (Restarts.judgePower _ _)

end Sys2Proof.Machine
end

