-- ==== Sys2Proof/Laws/Talk.lean ====
section
/-! SUPPORT. What sessions, zones and resume rings can do to buildings and bells: of the buildings only a building's signal and its wanted mark change (Talk); what makes and ends sessions leaves bells, the building view and all of a zone but its occupant and held slot alone too (Voice); and what only ends sessions makes none (Fewer). One lemma for each operation. -/

namespace Sys2Proof.Machine

/-- Calm, and of the buildings and the log only signals and wanted marks change. -/
structure Talk (s t : State) : Prop extends Calm s t where
  buildings : ∀ b, t.building b = { s.building b with signal := (t.building b).signal, wanted := (t.building b).wanted }
  log       : t.drill.log = s.drill.log
  serial    : t.drill.serial = s.drill.serial

theorem Talk.refl (s : State) : Talk s s := ⟨Calm.refl s, fun _ => rfl, rfl, rfl⟩

theorem Talk.trans {a b c : State} (h : Talk a b) (k : Talk b c) : Talk a c :=
  ⟨h.toCalm.trans k.toCalm, fun x => by rw [k.buildings x, h.buildings x], k.log.trans h.log,
    k.serial.trans h.serial⟩

theorem Talk.each {α : Type} {r s : State} (f : α → State → State) (xs : List α) (hs : Talk r s)
    (h : ∀ x t, Talk t (f x t)) : Talk r (s.each xs f) :=
  hs.trans (each_induct Talk Talk.refl Talk.trans f h xs s)

/-- A calm step that leaves the controller alone. -/
theorem Talk.of_drill {s t : State} (h : Calm s t) (e : t.drill = s.drill) : Talk s t :=
  ⟨h, fun b => by simp only [State.building, e], by rw [e], by rw [e]⟩

/-- Talk that leaves the Bell Scheduler, the building view and the zones, occupant and held slot apart, alone. -/
structure Voice (s t : State) : Prop extends Talk s t where
  bell  : t.bell = s.bell
  view  : t.router.view = s.router.view
  marks : ∀ z, t.zone z = { s.zone z with occupant := (t.zone z).occupant, held := (t.zone z).held }

theorem Voice.talk {s t : State} (h : Voice s t) : Talk s t := h.toTalk

theorem Voice.refl (s : State) : Voice s s := ⟨Talk.refl s, rfl, rfl, fun _ => rfl⟩

theorem Voice.trans {a b c : State} (h : Voice a b) (k : Voice b c) : Voice a c :=
  ⟨h.toTalk.trans k.toTalk, k.bell.trans h.bell, k.view.trans h.view, fun z => by rw [k.marks z, h.marks z]⟩

theorem Voice.each {α : Type} {r s : State} (f : α → State → State) (xs : List α) (hs : Voice r s)
    (h : ∀ x t, Voice t (f x t)) : Voice r (s.each xs f) :=
  hs.trans (each_induct Voice Voice.refl Voice.trans f h xs s)

/-- Voice that makes no session. -/
structure Fewer (s t : State) : Prop extends Voice s t where
  seqSame : t.router.seq = s.router.seq
  only    : ∀ n y, t.sess n = some y → ∃ x, s.sess n = some x ∧ y.ident = x.ident

theorem Fewer.voice {s t : State} (h : Fewer s t) : Voice s t := h.toVoice

theorem Fewer.refl (s : State) : Fewer s s := ⟨Voice.refl s, rfl, fun _ y h => ⟨y, h, rfl⟩⟩

theorem Fewer.trans {a b c : State} (h : Fewer a b) (k : Fewer b c) : Fewer a c :=
  ⟨h.toVoice.trans k.toVoice, k.seqSame.trans h.seqSame, fun n z hz => by
    obtain ⟨y, hy, e⟩ := k.only n z hz
    obtain ⟨x, hx, d⟩ := h.only n y hy
    exact ⟨x, hx, e.trans d⟩⟩

theorem Fewer.each {α : Type} {r s : State} (f : α → State → State) (xs : List α) (hs : Fewer r s)
    (h : ∀ x t, Fewer t (f x t)) : Fewer r (s.each xs f) :=
  hs.trans (each_induct Fewer Fewer.refl Fewer.trans f h xs s)

/-- A calm step that leaves the controller, the bells, the view and zones alone. -/
theorem Voice.of_drill {s t : State} (h : Calm s t) (e : t.drill = s.drill) (b : t.bell = s.bell)
    (v : t.router.view = s.router.view) (z : t.router.zones = s.router.zones) : Voice s t :=
  ⟨.of_drill h e, b, v, fun y => by simp only [State.zone, z]⟩

theorem Fewer.of_drill {s t : State} (h : Calm s t) (e : t.drill = s.drill) (b : t.bell = s.bell)
    (v : t.router.view = s.router.view) (z : t.router.zones = s.router.zones)
    (q : t.router.seq = s.router.seq) (x : t.router.sessions = s.router.sessions) : Fewer s t :=
  ⟨.of_drill h e b v z, q, fun n y hy => ⟨y, by unfold State.sess at hy ⊢; rw [← x]; exact hy, rfl⟩⟩

theorem Fewer.freeSess (n : SessId) (s : State) : Fewer s (s.setSess n none) := by
  refine ⟨.of_drill (Calm.freeSess n s) rfl rfl rfl rfl, rfl, fun m y hy => ?_⟩
  rw [setSess_sess] at hy
  split at hy
  · cases hy
  · exact ⟨y, hy, rfl⟩
theorem Fewer.onSess (n : SessId) (f : Session → Session) (s : State) (h : ∀ x, (f x).ident = x.ident) :
    Fewer s (s.onSess n f) := by
  refine ⟨.of_drill (Calm.onSess n f s h) rfl rfl rfl rfl, rfl, fun m y hy => ?_⟩
  rw [onSess_sess] at hy
  split at hy
  · rename_i e; subst e
    cases e : s.sess m with
    | none => rw [e] at hy; cases hy
    | some x =>
      rw [e, Option.map_some, Option.some.injEq] at hy
      subst hy
      exact ⟨x, rfl, h x⟩
  · exact ⟨y, hy, rfl⟩
theorem Voice.fillSess (n : SessId) (x : Session) (s : State) (h : x.seq = s.router.seq) :
    Voice s ((s.setSess n (some x)).onRouter fun r => { r with seq := r.seq + 1 }) :=
  .of_drill (Calm.fillSess n x s h) rfl rfl rfl rfl
theorem Fewer.onPlayer (p : PlayerId) (f : Player → Player) (s : State) : Fewer s (s.onPlayer p f) :=
  .of_drill (Calm.onPlayer p f s) rfl rfl rfl rfl rfl rfl
theorem Fewer.onGen (g : GenId) (f : Generator → Generator) (s : State) : Fewer s (s.onGen g f) :=
  .of_drill (Calm.onGen g f s) rfl rfl rfl rfl rfl rfl
theorem Fewer.onWork (f : Work → Work) (s : State) : Fewer s (s.onWork f) :=
  .of_drill (Calm.onWork f s) rfl rfl rfl rfl rfl rfl
theorem Fewer.onTone {s : State} (f : ToneBank → ToneBank) (h : (f s.tone).patterns = s.tone.patterns) :
    Fewer s (s.onTone f) := .of_drill (Calm.onTone f h) rfl rfl rfl rfl rfl rfl
theorem Fewer.onRouter {s : State} (f : Router → Router)
    (h : f s.router = { s.router with
      players := (f s.router).players, latched := (f s.router).latched, frame := (f s.router).frame
      seen := (f s.router).seen, changed := (f s.router).changed }) :
    Fewer s (s.onRouter f) := by
  have e : (s.onRouter f).router = _ := h
  refine .of_drill (Calm.onRouter f ?_) rfl rfl (by rw [e]) (by rw [e]) (by rw [e]) (by rw [e])
  rw [h]
theorem Fewer.noteSelections (s : State) : Fewer s s.noteSelections := by
  unfold State.noteSelections
  split
  · exact Fewer.onRouter _ rfl
  · exact Fewer.refl s
theorem Fewer.onZone {s : State} (z : ZoneId) (f : Zone → Zone)
    (h : ∀ r, f r = { r with occupant := (f r).occupant, held := (f r).held }) : Fewer s (s.onZone z f) := by
  refine ⟨⟨.of_drill (Calm.onZone z f h) rfl, rfl, rfl, fun y => ?_⟩, rfl, fun n y hy => ⟨y, hy, rfl⟩⟩
  rw [onZone_zone]
  split
  · rename_i e; subst e; exact h _
  · rfl
theorem Fewer.onConsole {s : State} (c : ConsoleId) (f : Console → Console)
    (h : ∀ r, f r = { r with session := none }) : Fewer s (s.onConsole c f) :=
  .of_drill (Calm.onConsole c f h) rfl rfl rfl rfl rfl rfl
theorem Fewer.onMem {s : State} (base : Nat) (bs : List Byte)
    (h : ∀ a, base ≤ a → a < base + bs.length → ¬ hostArea a) : Fewer s (s.onMem fun m => m.write base bs) :=
  .of_drill (Calm.onMem base bs h) rfl rfl rfl rfl rfl rfl

/-- A building's signal and wanted mark change. -/
theorem Fewer.onBuilding {s : State} (b : BuildingId) (f : Building → Building)
    (h : ∀ r, f r = { r with signal := (f r).signal, wanted := (f r).wanted }) : Fewer s (s.onBuilding b f) := by
  refine ⟨⟨⟨Calm.onBuilding b f s, fun c => ?_, rfl, rfl⟩, rfl, rfl, fun _ => rfl⟩, rfl, fun n y hy => ⟨y, hy, rfl⟩⟩
  rw [onBuilding_building]
  split
  · rename_i e; subst e; exact h _
  · rfl

theorem Reported.fewer {s t : State} (h : Reported s t) : Fewer s t := by
  refine .of_drill h.calm ?_ ?_ ?_ ?_ ?_ ?_
  all_goals rw [h.same]

theorem Fewer.report (r : Report) (s : State) : Fewer s (s.report r) := (Reported.report r s).fewer

/-! ### Sessions that end, and zones judged again -/

theorem Fewer.touch (n : SessId) (s : State) : Fewer s (State.touch n s) := by
  unfold State.touch
  try dsimp only
  repeat' first
    | with_reducible apply Fewer.refl
    | exact fun _ => rfl
    | exact fun _ => ⟨rfl, rfl⟩
    | exact Eq.refl _
    | assumption
    | with_reducible apply Fewer.trans (k := Fewer.onWork ..)
    | split
    | intro _ _
    | intro _

theorem Fewer.moveZone (n : SessId) (z : ZoneId) (p : Standing) (s : State) : Fewer s (State.moveZone n z p s) := by
  unfold State.moveZone
  try dsimp only
  repeat' first
    | with_reducible apply Fewer.refl
    | exact fun _ => rfl
    | exact fun _ => ⟨rfl, rfl⟩
    | exact Eq.refl _
    | assumption
    | with_reducible apply Fewer.trans (k := Fewer.onSess _ _ _ ?_)
    | exact fun _ => moveTo_ident _ _ _
    | with_reducible apply Fewer.trans (k := Fewer.touch ..)
    | split
    | intro _ _
    | intro _

theorem Fewer.connect (n : SessId) (z : ZoneId) (s : State) : Fewer s (State.connect n z s) := by
  unfold State.connect
  try dsimp only
  repeat' first
    | with_reducible apply Fewer.refl
    | exact fun _ => rfl
    | exact fun _ => ⟨rfl, rfl⟩
    | exact Eq.refl _
    | assumption
    | with_reducible apply Fewer.trans (k := Fewer.moveZone ..)
    | with_reducible apply Fewer.trans (k := Fewer.onZone _ _ ?_ )
    | split
    | intro _ _
    | intro _

theorem Fewer.holdOccupant (o : SessId) (z : ZoneId) (s : State) : Fewer s (State.holdOccupant o z s) := by
  unfold State.holdOccupant
  try dsimp only
  repeat' first
    | with_reducible apply Fewer.refl
    | exact fun _ => rfl
    | exact fun _ => ⟨rfl, rfl⟩
    | exact Eq.refl _
    | assumption
    | with_reducible apply Fewer.trans (k := Fewer.moveZone ..)
    | with_reducible apply Fewer.trans (k := Fewer.onZone _ _ ?_ )
    | split
    | intro _ _
    | intro _

theorem Fewer.judge (mayDefer : Bool) (n : SessId) (z : ZoneId) (s : State) : Fewer s (State.judge mayDefer n z s) := by
  unfold State.judge State.meetOccupant
  try dsimp only
  repeat' first
    | with_reducible apply Fewer.refl
    | exact fun _ => rfl
    | exact fun _ => ⟨rfl, rfl⟩
    | exact Eq.refl _
    | assumption
    | with_reducible apply Fewer.trans (k := Fewer.connect ..)
    | with_reducible apply Fewer.trans (k := Fewer.moveZone ..)
    | with_reducible apply Fewer.trans (k := Fewer.holdOccupant ..)
    | split
    | intro _ _
    | intro _

theorem Fewer.offer (z : ZoneId) (s : State) : Fewer s (State.offer z s) := by
  unfold State.offer
  try dsimp only
  repeat' first
    | with_reducible apply Fewer.refl
    | exact fun _ => rfl
    | exact fun _ => ⟨rfl, rfl⟩
    | exact Eq.refl _
    | assumption
    | with_reducible apply Fewer.each
    | with_reducible apply Fewer.trans (k := Fewer.moveZone ..)
    | with_reducible apply Fewer.trans (k := Fewer.connect ..)
    | split
    | intro _ _
    | intro _

theorem Fewer.releaseZone (z : ZoneId) (s : State) : Fewer s (State.releaseZone z s) := by
  unfold State.releaseZone
  try dsimp only
  repeat' first
    | with_reducible apply Fewer.refl
    | exact fun _ => rfl
    | exact fun _ => ⟨rfl, rfl⟩
    | exact Eq.refl _
    | assumption
    | with_reducible apply Fewer.trans (k := Fewer.connect ..)
    | with_reducible apply Fewer.trans (k := Fewer.offer ..)
    | with_reducible apply Fewer.trans (k := Fewer.onZone _ _ ?_ )
    | split
    | intro _ _
    | intro _

theorem Fewer.activate (n : SessId) (s : State) : Fewer s (State.activate n s) := by
  unfold State.activate
  try dsimp only
  repeat' first
    | with_reducible apply Fewer.refl
    | exact fun _ => rfl
    | exact fun _ => ⟨rfl, rfl⟩
    | exact Eq.refl _
    | assumption
    | with_reducible apply Fewer.trans (k := Fewer.onSess _ _ _ ?_)
    | exact fun _ => moveTo_ident _ _ _
    | split
    | intro _ _
    | intro _

theorem Fewer.joinGen (g : GenId) (n : SessId) (s : State) : Fewer s (State.joinGen g n s) := by
  unfold State.joinGen
  try dsimp only
  repeat' first
    | with_reducible apply Fewer.refl
    | exact fun _ => rfl
    | exact fun _ => ⟨rfl, rfl⟩
    | exact Eq.refl _
    | assumption
    | with_reducible apply Fewer.trans (k := Fewer.onGen ..)
    | with_reducible apply Fewer.trans (k := Fewer.activate ..)
    | split
    | intro _ _
    | intro _

theorem Fewer.grantGen (g : GenId) (n : SessId) (s : State) : Fewer s (State.grantGen g n s) := by
  unfold State.grantGen
  try dsimp only
  repeat' first
    | with_reducible apply Fewer.refl
    | exact fun _ => rfl
    | exact fun _ => ⟨rfl, rfl⟩
    | exact Eq.refl _
    | assumption
    | with_reducible apply Fewer.each
    | with_reducible apply Fewer.trans (k := Fewer.onGen ..)
    | with_reducible apply Fewer.trans (k := Fewer.activate ..)
    | with_reducible apply Fewer.trans (k := Fewer.joinGen ..)
    | with_reducible apply Fewer.trans (k := Fewer.onTone _ ?_ )
    | split
    | intro _ _
    | intro _

theorem Fewer.serveGen (g : GenId) (s : State) : Fewer s (State.serveGen g s) := by
  unfold State.serveGen
  try dsimp only
  repeat' first
    | with_reducible apply Fewer.refl
    | exact fun _ => rfl
    | exact fun _ => ⟨rfl, rfl⟩
    | exact Eq.refl _
    | assumption
    | with_reducible apply Fewer.trans (k := Fewer.grantGen ..)
    | with_reducible apply Fewer.trans (k := Fewer.onTone _ ?_ )
    | split
    | intro _ _
    | intro _

theorem Fewer.leaveGen (n : SessId) (g : GenId) (s : State) : Fewer s (State.leaveGen n g s) := by
  unfold State.leaveGen
  try dsimp only
  repeat' first
    | with_reducible apply Fewer.refl
    | exact fun _ => rfl
    | exact fun _ => ⟨rfl, rfl⟩
    | exact Eq.refl _
    | assumption
    | with_reducible apply Fewer.trans (k := Fewer.onGen ..)
    | with_reducible apply Fewer.trans (k := Fewer.serveGen ..)
    | split
    | intro _ _
    | intro _

theorem Fewer.judgePause (n : SessId) (s : State) : Fewer s (State.judgePause n s) := by
  unfold State.judgePause
  try dsimp only
  repeat' first
    | with_reducible apply Fewer.refl
    | exact fun _ => rfl
    | exact fun _ => ⟨rfl, rfl⟩
    | exact Eq.refl _
    | assumption
    | with_reducible apply Fewer.trans (k := Fewer.onSess _ _ _ ?_)
    | exact fun _ => moveTo_ident _ _ _
    | with_reducible apply Fewer.trans (k := Fewer.onPlayer ..)
    | split
    | intro _ _
    | intro _

theorem Fewer.grantPlayer (p : PlayerId) (n : SessId) (s : State) : Fewer s (State.grantPlayer p n s) := by
  unfold State.grantPlayer
  try dsimp only
  repeat' first
    | with_reducible apply Fewer.refl
    | exact fun _ => rfl
    | exact fun _ => ⟨rfl, rfl⟩
    | exact Eq.refl _
    | assumption
    | with_reducible apply Fewer.trans (k := Fewer.onPlayer ..)
    | with_reducible apply Fewer.trans (k := Fewer.activate ..)
    | with_reducible apply Fewer.trans (k := Fewer.judgePause ..)
    | split
    | intro _ _
    | intro _

theorem Fewer.servePlayer (p : PlayerId) (s : State) : Fewer s (State.servePlayer p s) := by
  unfold State.servePlayer
  try dsimp only
  repeat' first
    | with_reducible apply Fewer.refl
    | exact fun _ => rfl
    | exact fun _ => ⟨rfl, rfl⟩
    | exact Eq.refl _
    | assumption
    | with_reducible apply Fewer.trans (k := Fewer.onPlayer ..)
    | with_reducible apply Fewer.trans (k := Fewer.grantPlayer ..)
    | split
    | intro _ _
    | intro _

theorem Fewer.leavePlayer (p : PlayerId) (s : State) : Fewer s (State.leavePlayer p s) := by
  unfold State.leavePlayer
  try dsimp only
  repeat' first
    | with_reducible apply Fewer.refl
    | exact fun _ => rfl
    | exact fun _ => ⟨rfl, rfl⟩
    | exact Eq.refl _
    | assumption
    | with_reducible apply Fewer.trans (k := Fewer.onPlayer ..)
    | with_reducible apply Fewer.trans (k := Fewer.servePlayer ..)
    | split
    | intro _ _
    | intro _

theorem Fewer.reportEnd (n : SessId) (x : Session) (cause : EndCause) (s : State) : Fewer s (State.reportEnd n x cause s) := by
  unfold State.reportEnd
  try dsimp only
  repeat' first
    | with_reducible apply Fewer.refl
    | exact fun _ => rfl
    | exact fun _ => ⟨rfl, rfl⟩
    | exact Eq.refl _
    | assumption
    | with_reducible apply Fewer.each
    | with_reducible apply Fewer.trans (k := Fewer.report ..)
    | split
    | intro _ _
    | intro _

theorem Fewer.tellBuilding (b : BuildingId) (n : SessId) (cause : EndCause) (s : State) : Fewer s (State.tellBuilding b n cause s) := by
  unfold State.tellBuilding
  try dsimp only
  repeat' first
    | with_reducible apply Fewer.refl
    | exact fun _ => rfl
    | exact fun _ => ⟨rfl, rfl⟩
    | exact Eq.refl _
    | assumption
    | with_reducible apply Fewer.trans (k := Fewer.onBuilding _ _ ?_)
    | with_reducible apply Fewer.trans (k := Fewer.onWork ..)
    | split
    | intro _ _
    | intro _

theorem Fewer.returnSource (n : SessId) (x : Session) (s : State) : Fewer s (State.returnSource n x s) := by
  unfold State.returnSource
  try dsimp only
  repeat' first
    | with_reducible apply Fewer.refl
    | exact fun _ => rfl
    | exact fun _ => ⟨rfl, rfl⟩
    | exact Eq.refl _
    | assumption
    | with_reducible apply Fewer.trans (k := Fewer.leaveGen ..)
    | with_reducible apply Fewer.trans (k := Fewer.leavePlayer ..)
    | split
    | intro _ _
    | intro _

theorem Fewer.dropFromConsoles (n : SessId) (s : State) : Fewer s (State.dropFromConsoles n s) := by
  unfold State.dropFromConsoles
  try dsimp only
  repeat' first
    | with_reducible apply Fewer.refl
    | exact fun _ => rfl
    | exact fun _ => ⟨rfl, rfl⟩
    | exact Eq.refl _
    | assumption
    | with_reducible apply Fewer.each
    | with_reducible apply Fewer.trans (k := Fewer.onConsole _ _ ?_ )
    | split
    | intro _ _
    | intro _

theorem Fewer.unlist (n : SessId) (x : Session) (s : State) : Fewer s (State.unlist n x s) := by
  unfold State.unlist
  try dsimp only
  repeat' first
    | with_reducible apply Fewer.refl
    | exact fun _ => rfl
    | exact fun _ => ⟨rfl, rfl⟩
    | exact Eq.refl _
    | assumption
    | with_reducible apply Fewer.each
    | with_reducible apply Fewer.trans (k := Fewer.freeSess ..)
    | with_reducible apply Fewer.trans (k := Fewer.onZone _ _ ?_ )
    | with_reducible apply Fewer.trans (k := Fewer.onRouter _ ?_ )
    | with_reducible apply Fewer.trans (k := Fewer.onTone _ ?_ )
    | split
    | intro _ _
    | intro _

theorem Fewer.releaseAll (n : SessId) (x : Session) (s : State) : Fewer s (State.releaseAll n x s) := by
  unfold State.releaseAll
  try dsimp only
  repeat' first
    | with_reducible apply Fewer.refl
    | exact fun _ => rfl
    | exact fun _ => ⟨rfl, rfl⟩
    | exact Eq.refl _
    | assumption
    | with_reducible apply Fewer.each
    | with_reducible apply Fewer.trans (k := Fewer.releaseZone ..)
    | with_reducible apply Fewer.trans (k := Fewer.onZone _ _ ?_ )
    | split
    | intro _ _
    | intro _

theorem Fewer.endOne (n : SessId) (cause : EndCause) (s : State) : Fewer s (State.endOne n cause s) := by
  unfold State.endOne
  try dsimp only
  repeat' first
    | with_reducible apply Fewer.refl
    | exact fun _ => rfl
    | exact fun _ => ⟨rfl, rfl⟩
    | exact Eq.refl _
    | assumption
    | with_reducible apply Fewer.trans (k := Fewer.unlist ..)
    | with_reducible apply Fewer.trans (k := Fewer.releaseAll ..)
    | with_reducible apply Fewer.trans (k := Fewer.returnSource ..)
    | with_reducible apply Fewer.trans (k := Fewer.dropFromConsoles ..)
    | with_reducible apply Fewer.trans (k := Fewer.reportEnd ..)
    | with_reducible apply Fewer.trans (k := Fewer.onWork ..)
    | with_reducible apply Fewer.trans (k := Fewer.tellBuilding ..)
    | split
    | intro _ _
    | intro _

theorem Fewer.settleFrom (last : Option SessId) (k : Nat) : ∀ s : State, Fewer s (s.settleFrom last k) := by
  induction k with
  | zero => exact Fewer.refl
  | succ k ih =>
    intro s
    unfold State.settleFrom
    dsimp only
    have h : Fewer s (s.each s.work.touched State.judgePause) := Fewer.each _ _ (Fewer.refl s) Fewer.judgePause
    split
    · exact h.trans (Fewer.onWork _ _)
    · exact (h.trans (Fewer.endOne _ _ _)).trans (ih _)

theorem Fewer.settle (s : State) : Fewer s (State.settle s) := by
  unfold State.settle
  try dsimp only
  repeat' first
    | with_reducible apply Fewer.refl
    | exact fun _ => rfl
    | exact fun _ => ⟨rfl, rfl⟩
    | exact Eq.refl _
    | assumption
    | with_reducible apply Fewer.trans (k := Fewer.settleFrom ..)
    | split
    | intro _ _
    | intro _

theorem Fewer.endSession (n : SessId) (cause : EndCause) (s : State) : Fewer s (State.endSession n cause s) := by
  unfold State.endSession
  try dsimp only
  repeat' first
    | with_reducible apply Fewer.refl
    | exact fun _ => rfl
    | exact fun _ => ⟨rfl, rfl⟩
    | exact Eq.refl _
    | assumption
    | with_reducible apply Fewer.trans (k := Fewer.endOne ..)
    | with_reducible apply Fewer.trans (k := Fewer.settle ..)
    | split
    | intro _ _
    | intro _

theorem Fewer.endSessions (ns : List SessId) (cause : EndCause) (s : State) : Fewer s (State.endSessions ns cause s) := by
  unfold State.endSessions
  try dsimp only
  repeat' first
    | with_reducible apply Fewer.refl
    | exact fun _ => rfl
    | exact fun _ => ⟨rfl, rfl⟩
    | exact Eq.refl _
    | assumption
    | with_reducible apply Fewer.each
    | with_reducible apply Fewer.trans (k := Fewer.endSession ..)
    | split
    | intro _ _
    | intro _

theorem Fewer.takeGen (g : GenId) (n : SessId) (s : State) : Fewer s (State.takeGen g n s) := by
  unfold State.takeGen
  try dsimp only
  repeat' first
    | with_reducible apply Fewer.refl
    | exact fun _ => rfl
    | exact fun _ => ⟨rfl, rfl⟩
    | exact Eq.refl _
    | assumption
    | with_reducible apply Fewer.trans (k := Fewer.onWork ..)
    | with_reducible apply Fewer.trans (k := Fewer.endSessions ..)
    | with_reducible apply Fewer.trans (k := Fewer.grantGen ..)
    | split
    | intro _ _
    | intro _

theorem Fewer.askGen (n : SessId) (s : State) : Fewer s (State.askGen n s) := by
  unfold State.askGen
  try dsimp only
  repeat' first
    | with_reducible apply Fewer.refl
    | exact fun _ => rfl
    | exact fun _ => ⟨rfl, rfl⟩
    | exact Eq.refl _
    | assumption
    | with_reducible apply Fewer.trans (k := Fewer.joinGen ..)
    | with_reducible apply Fewer.trans (k := Fewer.grantGen ..)
    | with_reducible apply Fewer.trans (k := Fewer.takeGen ..)
    | with_reducible apply Fewer.trans (k := Fewer.endSession ..)
    | with_reducible apply Fewer.trans (k := Fewer.onTone _ ?_ )
    | split
    | intro _ _
    | intro _

theorem Fewer.askPlayer (n : SessId) (p : PlayerId) (s : State) : Fewer s (State.askPlayer n p s) := by
  unfold State.askPlayer
  try dsimp only
  repeat' first
    | with_reducible apply Fewer.refl
    | exact fun _ => rfl
    | exact fun _ => ⟨rfl, rfl⟩
    | exact Eq.refl _
    | assumption
    | with_reducible apply Fewer.trans (k := Fewer.grantPlayer ..)
    | with_reducible apply Fewer.trans (k := Fewer.onWork ..)
    | with_reducible apply Fewer.trans (k := Fewer.endSession ..)
    | with_reducible apply Fewer.trans (k := Fewer.onPlayer ..)
    | split
    | intro _ _
    | intro _

theorem Fewer.askSource (n : SessId) (s : State) : Fewer s (State.askSource n s) := by
  unfold State.askSource
  try dsimp only
  repeat' first
    | with_reducible apply Fewer.refl
    | exact fun _ => rfl
    | exact fun _ => ⟨rfl, rfl⟩
    | exact Eq.refl _
    | assumption
    | with_reducible apply Fewer.trans (k := Fewer.activate ..)
    | with_reducible apply Fewer.trans (k := Fewer.askGen ..)
    | with_reducible apply Fewer.trans (k := Fewer.askPlayer ..)
    | split
    | intro _ _
    | intro _

theorem Fewer.faultZone (z : ZoneId) (s : State) : Fewer s (State.faultZone z s) := by
  unfold State.faultZone
  try dsimp only
  repeat' first
    | with_reducible apply Fewer.refl
    | exact fun _ => rfl
    | exact fun _ => ⟨rfl, rfl⟩
    | exact Eq.refl _
    | assumption
    | with_reducible apply Fewer.trans (k := Fewer.moveZone ..)
    | with_reducible apply Fewer.trans (k := Fewer.onZone _ _ ?_ )
    | split
    | intro _ _
    | intro _

theorem Fewer.loseZone (z : ZoneId) (n : SessId) (s : State) : Fewer s (State.loseZone z n s) := by
  unfold State.loseZone
  try dsimp only
  repeat' first
    | with_reducible apply Fewer.refl
    | exact fun _ => rfl
    | exact fun _ => ⟨rfl, rfl⟩
    | exact Eq.refl _
    | assumption
    | with_reducible apply Fewer.trans (k := Fewer.moveZone ..)
    | with_reducible apply Fewer.trans (k := Fewer.onZone _ _ ?_ )
    | split
    | intro _ _
    | intro _

theorem Fewer.rejudge (z : ZoneId) (s : State) : Fewer s (State.rejudge z s) := by
  unfold State.rejudge
  try dsimp only
  repeat' first
    | with_reducible apply Fewer.refl
    | exact fun _ => rfl
    | exact fun _ => ⟨rfl, rfl⟩
    | exact Eq.refl _
    | assumption
    | with_reducible apply Fewer.each
    | with_reducible apply Fewer.trans (k := Fewer.faultZone ..)
    | with_reducible apply Fewer.trans (k := Fewer.loseZone ..)
    | with_reducible apply Fewer.trans (k := Fewer.releaseZone ..)
    | with_reducible apply Fewer.trans (k := Fewer.offer ..)
    | with_reducible apply Fewer.trans (k := Fewer.settle ..)
    | split
    | intro _ _
    | intro _

/-! ### Sessions made, and signals -/

theorem Voice.settleFrom (last : Option SessId) (k : Nat) (s : State) : Voice s (s.settleFrom last k) :=
  (Fewer.settleFrom last k s).voice
theorem Voice.judge (mayDefer : Bool) (n : SessId) (z : ZoneId) (s : State) :
    Voice s (State.judge mayDefer n z s) := (Fewer.judge mayDefer n z s).voice
theorem Voice.touch (n : SessId) (s : State) :
    Voice s (State.touch n s) := (Fewer.touch n s).voice
theorem Voice.askSource (n : SessId) (s : State) :
    Voice s (State.askSource n s) := (Fewer.askSource n s).voice
theorem Voice.onWork (f : Work → Work) (s : State) :
    Voice s (s.onWork f) := (Fewer.onWork f s).voice
theorem Voice.onMem {s : State} (base : Nat) (bs : List Byte) (h : ∀ a, base ≤ a → a < base + bs.length → ¬ hostArea a) :
    Voice s (s.onMem fun m => m.write base bs) := (Fewer.onMem base bs h).voice
theorem Voice.onBuilding {s : State} (b : BuildingId) (f : Building → Building) (h : ∀ r, f r = { r with signal := (f r).signal, wanted := (f r).wanted }) :
    Voice s (s.onBuilding b f) := (Fewer.onBuilding b f h).voice
theorem Voice.endSession (n : SessId) (cause : EndCause) (s : State) :
    Voice s (State.endSession n cause s) := (Fewer.endSession n cause s).voice

theorem Voice.enterSession (a : SessionAsk) (n : SessId) (s : State) : Voice s (State.enterSession a n s) := by
  unfold State.enterSession
  dsimp only
  with_reducible apply Voice.trans (k := Voice.settleFrom ..)
  refine Voice.each _ _ ?_ fun z t => Voice.judge _ _ _ _
  with_reducible apply Voice.trans (k := Voice.touch ..)
  exact Voice.fillSess n _ s rfl

theorem Voice.createSession (a : SessionAsk) (s : State) : Voice s (s.createSession a).1 := by
  unfold State.createSession
  split
  · exact Voice.refl s
  · split
    · exact Voice.refl s
    · exact (Voice.enterSession _ _ _).trans (Voice.askSource _ _)

theorem Voice.drawFree (s : State) : Voice s s.drawFree := Voice.onWork _ _

theorem Voice.writeBuildingMirror (b : BuildingId) (s : State) : Voice s (s.writeBuildingMirror b) := by
  unfold State.writeBuildingMirror
  dsimp only
  refine Voice.trans (Voice.trans ?_ (Voice.onMem _ _ fun a h1 h2 h => ?_)) (Voice.drawFree _)
  case refine_2 =>
    have := b.isLt
    rw [mirrorRecord_length, buildingBody_length] at h2
    simp only [hostArea] at h
    omega
  exact (Reported.onRh _ rfl rfl rfl rfl rfl id).fewer.voice

theorem Voice.pushStandDown (b : BuildingId) (s : State) : Voice s (State.pushStandDown b s) := by
  unfold State.pushStandDown
  try dsimp only
  repeat' first
    | with_reducible apply Voice.refl
    | exact fun _ => rfl
    | exact fun _ => ⟨rfl, rfl⟩
    | exact Eq.refl _
    | assumption
    | with_reducible apply Voice.trans (k := Voice.onWork ..)
    | split
    | intro _ _
    | intro _

theorem Voice.takeAnswer (b : BuildingId) (answer : Option SessId) (s : State) : Voice s (State.takeAnswer b answer s) := by
  unfold State.takeAnswer
  try dsimp only
  repeat' first
    | with_reducible apply Voice.refl
    | exact fun _ => rfl
    | exact fun _ => ⟨rfl, rfl⟩
    | exact Eq.refl _
    | assumption
    | with_reducible apply Voice.trans (k := Voice.onBuilding _ _ ?_)
    | with_reducible apply Voice.trans (k := Voice.pushStandDown ..)
    | split
    | intro _ _
    | intro _

theorem Voice.askSignal (b : BuildingId) (s : State) : Voice s (s.askSignal b) := by
  unfold State.askSignal
  split
  · exact Voice.refl s
  · exact (Voice.createSession _ _).trans (Voice.takeAnswer _ _ _)

theorem Voice.endSignal (b : BuildingId) (s : State) : Voice s (State.endSignal b s) := by
  unfold State.endSignal
  try dsimp only
  repeat' first
    | with_reducible apply Voice.refl
    | exact fun _ => rfl
    | exact fun _ => ⟨rfl, rfl⟩
    | exact Eq.refl _
    | assumption
    | with_reducible apply Voice.trans (k := Voice.endSession ..)
    | split
    | intro _ _
    | intro _

/-! ### Bells -/

theorem Talk.changeZone {s : State} (z : ZoneId) (f : Zone → Zone)
    (h : ∀ r, (f r).building = r.building ∧ (f r).base = r.base ∧ (f r).override = r.override ∧
      (f r).fault = r.fault) : Talk s (s.changeZone z f) := by
  have k := Calm.changeZone (s := s) z f h
  unfold State.changeZone State.refreshZone at k ⊢
  split at k
  · rename_i e; rw [if_pos e]; exact .of_drill k rfl
  · rename_i e; rw [if_neg e]
    have v := Fewer.rejudge z ((s.onZone z f).onZone z fun r => { r with effective := r.compute })
    exact ⟨k, v.buildings, v.log, v.serial⟩

theorem Talk.takeSchedQuiet (z : ZoneId) (mark : Bool) (s : State) : Talk s (s.takeSchedQuiet z mark) :=
  Talk.changeZone _ _ fun _ => ⟨rfl, rfl, rfl, rfl⟩

theorem Talk.onGroup (g : SchedId) (f : GroupWork → GroupWork) (s : State) : Talk s (s.onGroup g f) :=
  .of_drill (Calm.onGroup g f s) rfl
theorem Talk.onBell {s : State} (f : Bell → Bell) (h : (f s.bell).programs = s.bell.programs) :
    Talk s (s.onBell f) := .of_drill (Calm.onBell f h) rfl
theorem Talk.onRouter {s : State} (f : Router → Router)
    (h : f s.router = { s.router with
      view := (f s.router).view
      players := (f s.router).players, latched := (f s.router).latched, frame := (f s.router).frame
      seen := (f s.router).seen, changed := (f s.router).changed }) :
    Talk s (s.onRouter f) := .of_drill (Calm.onRouter f h) rfl
theorem Talk.rejudge (z : ZoneId) (s : State) : Talk s (State.rejudge z s) := (Fewer.rejudge z s).voice.talk
theorem Talk.createSession (a : SessionAsk) (s : State) : Talk s (s.createSession a).1 := (Voice.createSession a s).talk
theorem Talk.report (r : Report) (s : State) : Talk s (s.report r) := (Fewer.report r s).voice.talk

theorem Talk.takeBuildingState (b : BuildingId) (st : BState) (s : State) : Talk s (State.takeBuildingState b st s) := by
  unfold State.takeBuildingState
  try dsimp only
  repeat' first
    | with_reducible apply Talk.refl
    | exact fun _ => rfl
    | exact fun _ => ⟨rfl, rfl⟩
    | exact Eq.refl _
    | assumption
    | with_reducible apply Talk.each
    | with_reducible apply Talk.trans (k := Talk.rejudge ..)
    | with_reducible apply Talk.trans (k := Talk.onRouter _ ?_ )
    | split
    | intro _ _
    | intro _

theorem Talk.setGroupQuiet (g : SchedId) (zones : ZoneSet) (s : State) : Talk s (State.setGroupQuiet g zones s) := by
  unfold State.setGroupQuiet
  try dsimp only
  repeat' first
    | with_reducible apply Talk.refl
    | exact fun _ => rfl
    | exact fun _ => ⟨rfl, rfl⟩
    | exact Eq.refl _
    | assumption
    | with_reducible apply Talk.each
    | with_reducible apply Talk.trans (k := Talk.onGroup ..)
    | with_reducible apply Talk.trans (k := Talk.takeSchedQuiet ..)
    | split
    | intro _ _
    | intro _

theorem Talk.recordResume (g : SchedId) (ref : EntryRef) (bs : BuildingSet) (s : State) : Talk s (State.recordResume g ref bs s) := by
  unfold State.recordResume
  try dsimp only
  repeat' first
    | with_reducible apply Talk.refl
    | exact fun _ => rfl
    | exact fun _ => ⟨rfl, rfl⟩
    | exact Eq.refl _
    | assumption
    | with_reducible apply Talk.trans (k := Talk.onBell _ ?_ )
    | split
    | intro _ _
    | intro _

theorem Talk.sound (g : SchedId) (ref : EntryRef) (e : Entry) (zones suppressed : ZoneSet) (s : State) :
    Talk s (s.sound g ref e zones suppressed).1 := by
  unfold State.sound
  dsimp only
  split
  · exact Talk.refl s
  · have h := Talk.createSession (sessionAskOf g ref e (zones &&& ~~~suppressed) suppressed) s
    split <;> rename_i hx <;> rw [hx] at h <;> exact h

theorem Talk.fireSound (g : SchedId) (ref : EntryRef) (e : Entry) (lateness : Nat) (only : Option BuildingId)
    (s : State) : Talk s (s.fireSound g ref e lateness only) := by
  unfold State.fireSound
  dsimp only
  split
  · exact Talk.report _ _
  · have h := Talk.sound g ref e (s.firingZones g e only) (s.suppressedZones (s.firingZones g e only)) s
    generalize State.sound g ref e (s.firingZones g e only) (s.suppressedZones (s.firingZones g e only)) s = p at h ⊢
    obtain ⟨t, out⟩ := p
    dsimp only at h ⊢
    split
    · exact (h.trans (Talk.recordResume _ _ _ _)).trans (Talk.report _ _)
    · exact h.trans (Talk.report _ _)

theorem Talk.fireQuiet (g : SchedId) (ref : EntryRef) (e : Entry) (lateness : Nat) (s : State) : Talk s (State.fireQuiet g ref e lateness s) := by
  unfold State.fireQuiet
  try dsimp only
  repeat' first
    | with_reducible apply Talk.refl
    | exact fun _ => rfl
    | exact fun _ => ⟨rfl, rfl⟩
    | exact Eq.refl _
    | assumption
    | with_reducible apply Talk.trans (k := Talk.report ..)
    | with_reducible apply Talk.trans (k := Talk.setGroupQuiet ..)
    | split
    | intro _ _
    | intro _

theorem Talk.fire (g : SchedId) (ref : EntryRef) (e : Entry) (lateness : Nat) (only : Option BuildingId) (s : State) : Talk s (State.fire g ref e lateness only s) := by
  unfold State.fire
  try dsimp only
  repeat' first
    | with_reducible apply Talk.refl
    | exact fun _ => rfl
    | exact fun _ => ⟨rfl, rfl⟩
    | exact Eq.refl _
    | assumption
    | with_reducible apply Talk.trans (k := Talk.fireSound ..)
    | with_reducible apply Talk.trans (k := Talk.fireQuiet ..)
    | split
    | intro _ _
    | intro _

theorem Talk.takeEntry (g : SchedId) (p : ProgId) (now : Nat) (ke : Nat × Entry) (s : State) : Talk s (State.takeEntry g p now ke s) := by
  unfold State.takeEntry
  try dsimp only
  repeat' first
    | with_reducible apply Talk.refl
    | exact fun _ => rfl
    | exact fun _ => ⟨rfl, rfl⟩
    | exact Eq.refl _
    | assumption
    | with_reducible apply Talk.trans (k := Talk.fire ..)
    | with_reducible apply Talk.trans (k := Talk.report ..)
    | split
    | intro _ _
    | intro _

theorem Talk.runWatermark (g : SchedId) (now : Nat) (s : State) : Talk s (State.runWatermark g now s) := by
  unfold State.runWatermark
  try dsimp only
  repeat' first
    | with_reducible apply Talk.refl
    | exact fun _ => rfl
    | exact fun _ => ⟨rfl, rfl⟩
    | exact Eq.refl _
    | assumption
    | with_reducible apply Talk.each
    | with_reducible apply Talk.trans (k := Talk.takeEntry ..)
    | with_reducible apply Talk.trans (k := Talk.onGroup ..)
    | split
    | intro _ _
    | intro _

theorem Talk.clearResume (g : SchedId) (s : State) : Talk s (State.clearResume g s) := by
  unfold State.clearResume
  try dsimp only
  repeat' first
    | with_reducible apply Talk.refl
    | exact fun _ => rfl
    | exact fun _ => ⟨rfl, rfl⟩
    | exact Eq.refl _
    | assumption
    | with_reducible apply Talk.trans (k := Talk.onBell _ ?_ )
    | split
    | intro _ _
    | intro _

theorem Talk.resumeRing (b : BuildingId) (g : SchedId) (s : State) : Talk s (State.resumeRing b g s) := by
  unfold State.resumeRing
  try dsimp only
  repeat' first
    | with_reducible apply Talk.refl
    | exact fun _ => rfl
    | exact fun _ => ⟨rfl, rfl⟩
    | exact Eq.refl _
    | assumption
    | with_reducible apply Talk.trans (k := Talk.fire ..)
    | with_reducible apply Talk.trans (k := Talk.onBell _ ?_ )
    | split
    | intro _ _
    | intro _

theorem Talk.offerResume (b : BuildingId) (s : State) : Talk s (State.offerResume b s) := by
  unfold State.offerResume
  try dsimp only
  repeat' first
    | with_reducible apply Talk.refl
    | exact fun _ => rfl
    | exact fun _ => ⟨rfl, rfl⟩
    | exact Eq.refl _
    | assumption
    | with_reducible apply Talk.each
    | with_reducible apply Talk.trans (k := Talk.resumeRing ..)
    | split
    | intro _ _
    | intro _

theorem Talk.bellBuildingState (b : BuildingId) (st : BState) (s : State) : Talk s (State.bellBuildingState b st s) := by
  unfold State.bellBuildingState
  try dsimp only
  repeat' first
    | with_reducible apply Talk.refl
    | exact fun _ => rfl
    | exact fun _ => ⟨rfl, rfl⟩
    | exact Eq.refl _
    | assumption
    | with_reducible apply Talk.trans (k := Talk.offerResume ..)
    | with_reducible apply Talk.trans (k := Talk.onBell _ ?_ )
    | split
    | intro _ _
    | intro _

theorem Talk.announce (b : BuildingId) (st : BState) (s : State) : Talk s (State.announce b st s) := by
  unfold State.announce
  try dsimp only
  repeat' first
    | with_reducible apply Talk.refl
    | exact fun _ => rfl
    | exact fun _ => ⟨rfl, rfl⟩
    | exact Eq.refl _
    | assumption
    | with_reducible apply Talk.trans (k := Talk.takeBuildingState ..)
    | with_reducible apply Talk.trans (k := Talk.bellBuildingState ..)
    | split
    | intro _ _
    | intro _

end Sys2Proof.Machine
end

