-- ==== Sys2Proof/Laws/Transitions.lean ====
section
/-! SUPPORT. What a transition of a building does (R107), and what the signals and stand-downs that follow it leave alone (Downs). -/

namespace Sys2Proof.Machine

theorem core_state {r q : Building} (h : r.core = q.core) : r.state = q.state := by
  show r.core.state = q.core.state
  rw [h]
theorem core_timer {r q : Building} (h : r.core = q.core) : r.timer = q.timer := by
  show r.core.timer = q.core.timer
  rw [h]
theorem core_sources {r q : Building} (h : r.core = q.core) : r.sources = q.sources := by
  show r.core.sources = q.core.sources
  rw [h]
theorem core_contact {r q : Building} (h : r.core = q.core) : r.contact = q.contact := by
  show r.core.contact = q.core.contact
  rw [h]
theorem core_muster {r q : Building} (h : r.core = q.core) : r.muster = q.muster := by
  show r.core.muster = q.core.muster
  rw [h]

theorem core_outcome {r q : Building} (h : r.core = q.core) : r.outcome = q.outcome := by
  show r.core.outcome = q.core.outcome
  rw [h]
theorem core_profile {r q : Building} (h : r.core = q.core) : r.profile = q.profile := by
  show r.core.profile = q.core.profile
  rw [h]

theorem Talk.core {s t : State} (h : Talk s t) (b : BuildingId) : (t.building b).core = (s.building b).core := by
  rw [h.buildings b]; rfl

/-- What stand-downs and signals do. -/
structure Downs (s t : State) : Prop extends Calm s t, DrillSide s t

theorem Downs.make {s t : State} (h : Calm s t)
    (cores : ∀ b, (s.building b).state ≠ .standingDown → (t.building b).core = (s.building b).core)
    (ends : ∀ b, (s.building b).state = .standingDown →
      (t.building b).core = (s.building b).core ∨ (s.building b).stoodDown (t.building b))
    (serial : t.drill.serial = s.drill.serial)
    (still : s.noneDown → t.drill.log = s.drill.log ∧ t.bell = s.bell ∧ t.router.view = s.router.view) : Downs s t :=
  ⟨h, ⟨cores, ends, serial, still⟩⟩

theorem Downs.sounded {s t : State} (h : Downs s t) : Sounded s t := ⟨h.toCalm.soundSide, h.toPages, h.toDrillSide⟩

theorem Downs.refl (s : State) : Downs s s := 
  Downs.make (Calm.refl s) (fun _ _ => rfl) (fun _ _ => .inl rfl) rfl fun _ => ⟨rfl, rfl, rfl⟩

theorem Downs.none {s t : State} (h : Downs s t) (k : s.noneDown) : t.noneDown := fun b e =>
  k b (by rw [← core_state (h.cores b (k b))]; exact e)

theorem Downs.trans {a b c : State} (h : Downs a b) (k : Downs b c) : Downs a c := by
  refine Downs.make (h.toCalm.trans k.toCalm) (fun x hx => ?_) (fun x hx => ?_) (k.serial.trans h.serial) fun n => ?_
  · exact (k.cores x (by rw [core_state (h.cores x hx)]; exact hx)).trans (h.cores x hx)
  · rcases h.ends x hx with e | e
    · rcases k.ends x (by rw [core_state e]; exact hx) with f | f
      · exact .inl (f.trans e)
      · exact .inr ⟨f.1, f.2.1.trans (core_sources e), f.2.2.1.trans (core_contact e), f.2.2.2.trans (core_muster e)⟩
    · have n : (b.building x).state ≠ .standingDown := by
        rcases e.1 with g | g <;> rw [g] <;> decide
      have f := k.cores x n
      refine .inr ⟨?_, (core_sources f).trans e.2.1, (core_contact f).trans e.2.2.1, (core_muster f).trans e.2.2.2⟩
      rw [core_state f]; exact e.1
  · have p := h.still n
    have q := k.still (h.none n)
    exact ⟨q.1.trans p.1, q.2.1.trans p.2.1, q.2.2.trans p.2.2⟩

theorem Downs.each {α : Type} {r s : State} (f : α → State → State) (xs : List α) (hs : Downs r s)
    (h : ∀ x t, Downs t (f x t)) : Downs r (s.each xs f) :=
  hs.trans (each_induct Downs Downs.refl Downs.trans f h xs s)

theorem Voice.downs {s t : State} (h : Voice s t) : Downs s t :=
  Downs.make h.toCalm (fun b _ => h.core b) (fun b _ => .inl (h.core b)) h.serial
    fun _ => ⟨h.log, h.bell, h.view⟩

/-! ### Transitions -/

/-- What step 3 of a transition of building b does: to the log, and of the buildings only to b's profile, outcome,
open record and evacuation start. -/
structure LogStep (b : BuildingId) (f : State → State) : Prop where
  calm   : ∀ t, Calm t (f t)
  others : ∀ t c, c ≠ b → ((f t).building c).core = (t.building c).core
  own    : ∀ t, (f t).building b = { t.building b with
    profile := ((f t).building b).profile, outcome := ((f t).building b).outcome
    openRec := ((f t).building b).openRec, evacFrom := ((f t).building b).evacFrom }

/-- A transition of building b: every other building keeps its record, its signal apart; b has the new state and timer,
what step 3 did to it, and the rest of its record; and the log is what step 3 made it. `u` is the state at step 3. -/
structure Moved (b : BuildingId) (m : Move) (s t : State) : Prop extends Calm s t where
  others : ∀ c, c ≠ b → (t.building c).core = (s.building c).core
  step   : ∃ u : State, Calm s u ∧ u.drill.log = s.drill.log ∧ u.drill.serial = s.drill.serial ∧
    u.building b = { s.building b with signal := none, wanted := false, timer := none, state := m.new } ∧
    (t.building b).core = { ((m.log u).building b).core with timer := m.timer } ∧
    t.drill.log = (m.log u).drill.log ∧ t.drill.serial = (m.log u).drill.serial

theorem onBuilding_core (b c : BuildingId) (f : Building → Building) (s : State) (h : c ≠ b) :
    ((s.onBuilding b f).building c).core = (s.building c).core := by
  rw [onBuilding_building, if_neg h]

theorem moved_core (b : BuildingId) (m : Move) (h : LogStep b m.log) (s : State) :
    Moved b m s (s.transitionCore b m) := by
  have k := Calm.transitionCore b m h.calm (s := s)
  unfold State.transitionCore at k ⊢
  dsimp only at k ⊢
  have h1 := Voice.endSignal b s
  generalize s.endSignal b = s0 at h1 k ⊢
  generalize e1 : (s0.onBuilding b fun r => { r with signal := none, wanted := false, timer := none }).onBuilding b
    (fun r => { r with state := m.new }) = s1 at k ⊢
  have h2 : Talk (m.log s1) (((m.log s1).announce b m.new).report
      (.buildingState b (s.building b).state m.new m.cause) |>.writeBuildingMirror b) :=
    ((Talk.announce b m.new _).trans (Talk.report _ _)).trans (Voice.writeBuildingMirror _ _).talk
  generalize (((m.log s1).announce b m.new).report
      (.buildingState b (s.building b).state m.new m.cause)).writeBuildingMirror b = s3 at h2 k ⊢
  have h3 := Voice.askSignal b (s3.onBuilding b fun r => { r with timer := m.timer })
  generalize (s3.onBuilding b fun r => { r with timer := m.timer }).askSignal b = t at h3 k ⊢
  have hs : (s1.building b) = { s0.building b with signal := none, wanted := false, timer := none, state := m.new } := by
    rw [← e1, onBuilding_building, if_pos rfl, onBuilding_building, if_pos rfl]
  have c1 : Calm s s1 := by
    rw [← e1]; exact (h1.toCalm.trans (Calm.onBuilding _ _ _)).trans (Calm.onBuilding _ _ _)
  refine ⟨k, fun c hc => ?_, s1, c1, ?_, ?_, ?_, ?_, ?_, ?_⟩
  · rw [h3.core c, onBuilding_core b c _ _ hc, h2.core c, h.others s1 c hc, ← e1, onBuilding_core b c _ _ hc,
      onBuilding_core b c _ _ hc, h1.core c]
  · rw [← e1]; exact h1.log
  · rw [← e1]; exact h1.serial
  · rw [hs, h1.buildings b]
  · rw [h3.core b, onBuilding_building, if_pos rfl, ← h2.core b]; rfl
  · rw [h3.log]; exact h2.log
  · rw [h3.serial]; exact h2.serial

/-- Building b once a transition is carried out, what step 3 may change apart. -/
theorem moved_own {b : BuildingId} {m : Move} (h : LogStep b m.log) {s t : State} (k : Moved b m s t) :
    (t.building b).core = { (s.building b).core with
      state := m.new, timer := m.timer
      profile := (t.building b).profile, outcome := (t.building b).outcome
      openRec := (t.building b).openRec, evacFrom := (t.building b).evacFrom } := by
  obtain ⟨u, -, -, -, hu, ht, -, -⟩ := k.step
  have ho := h.own u
  have core_profile : ∀ {r q : Building} {x}, r.core = { q.core with timer := x } → r.profile = q.profile := by
    intro r q x e; show r.core.profile = _; rw [e]; rfl
  have core_outcome : ∀ {r q : Building} {x}, r.core = { q.core with timer := x } → r.outcome = q.outcome := by
    intro r q x e; show r.core.outcome = _; rw [e]; rfl
  have core_openRec : ∀ {r q : Building} {x}, r.core = { q.core with timer := x } → r.openRec = q.openRec := by
    intro r q x e; show r.core.openRec = _; rw [e]; rfl
  have core_evacFrom : ∀ {r q : Building} {x}, r.core = { q.core with timer := x } → r.evacFrom = q.evacFrom := by
    intro r q x e; show r.core.evacFrom = _; rw [e]; rfl
  have e1 : (t.building b).profile = ((m.log u).building b).profile := core_profile ht
  have e2 : (t.building b).outcome = ((m.log u).building b).outcome := core_outcome ht
  have e3 : (t.building b).openRec = ((m.log u).building b).openRec := core_openRec ht
  have e4 : (t.building b).evacFrom = ((m.log u).building b).evacFrom := core_evacFrom ht
  rw [ht, e1, e2, e3, e4, ho, hu]
  rfl

/-! ### What step 3 of a transition does -/

theorem LogStep.id (b : BuildingId) : LogStep b id := ⟨Calm.refl, fun _ _ _ => rfl, fun _ => rfl⟩

theorem LogStep.comp {b : BuildingId} {f g : State → State} (hf : LogStep b f) (hg : LogStep b g) :
    LogStep b fun t => g (f t) :=
  ⟨fun t => (hf.calm t).trans (hg.calm _), fun t c hc => (hg.others _ c hc).trans (hf.others t c hc), fun t => by
    have e := hg.own (f t)
    rw [e, hf.own t]⟩

theorem LogStep.onBuilding (b : BuildingId) (f : Building → Building)
    (h : ∀ r, f r = { r with profile := (f r).profile, outcome := (f r).outcome, openRec := (f r).openRec
                             evacFrom := (f r).evacFrom }) :
    LogStep b (State.onBuilding b f) :=
  ⟨Calm.onBuilding b f, fun t c hc => onBuilding_core b c f t hc, fun t => by
    rw [onBuilding_building, if_pos rfl]; exact h _⟩

/-- A step that leaves the building records alone. -/
theorem LogStep.of_buildings (b : BuildingId) {f : State → State} (hc : ∀ t, Calm t (f t))
    (h : ∀ t c, (f t).building c = t.building c) : LogStep b f :=
  ⟨hc, fun t c _ => by rw [h], fun t => by rw [h]⟩

theorem LogStep.onOpenRecord (b : BuildingId) (f : LogRec → LogRec) : LogStep b (State.onOpenRecord b f) :=
  .of_buildings b (Calm.onOpenRecord b f) fun _ _ => rfl

theorem report_building (r : Report) (s : State) (c : BuildingId) : (s.report r).building c = s.building c := by
  have h := (Reported.report r s).same
  rw [h]; rfl

theorem LogStep.report (b : BuildingId) (r : Report) : LogStep b (State.report r) :=
  .of_buildings b (Calm.report r) fun t c => report_building r t c

theorem LogStep.closeRecord (b : BuildingId) (out : LogOutcome) : LogStep b (State.closeRecord b out) := by
  refine ⟨Calm.closeRecord b out, fun t c hc => ?_, fun t => ?_⟩
  all_goals
    unfold State.closeRecord
    split
    · rfl
    · dsimp only
      split
      all_goals
        try rw [report_building]
        rw [onBuilding_building]
        first
          | rw [if_neg hc]; rfl
          | rw [if_pos rfl]; rfl

theorem LogStep.openRecord (b : BuildingId) (isAlarm : Bool) (profile : Option ProfileId) (evac : Option Stamp) :
    LogStep b (State.openRecord b isAlarm profile evac) := by
  refine ⟨Calm.openRecord b isAlarm profile evac, fun t c hc => ?_, fun t => ?_⟩
  all_goals
    unfold State.openRecord
    dsimp only
    rw [onBuilding_building]
    first
      | rw [if_neg hc]; rfl
      | rw [if_pos rfl]; rfl

theorem LogStep.stampMuster (b : BuildingId) : LogStep b (State.stampMuster b) :=
  .of_buildings b (Calm.stampMuster b) fun _ _ => rfl

theorem LogStep.stampEvacStart (b : BuildingId) : LogStep b (State.stampEvacStart b) := by
  refine ⟨Calm.stampEvacStart b, fun t c hc => ?_, fun t => ?_⟩
  all_goals
    unfold State.stampEvacStart
    rw [onBuilding_building]
    first
      | rw [if_neg hc]; rfl
      | rw [if_pos rfl]; rfl

theorem LogStep.openDrill (b : BuildingId) (n : ProfileId) : LogStep b (State.openDrill b n) :=
  (LogStep.openRecord b false (some n) none).comp (LogStep.onBuilding b _ fun _ => rfl)

theorem closeStandDown_eq (b : BuildingId) (t : State) : ∃ out, t.closeStandDown b =
    State.onBuilding b (fun r => { r with profile := none, outcome := none }) (t.closeRecord b out) := ⟨_, rfl⟩

theorem LogStep.closeStandDown (b : BuildingId) : LogStep b (State.closeStandDown b) := by
  have k (out : LogOutcome) := (LogStep.closeRecord b out).comp
    (LogStep.onBuilding b (fun r => { r with profile := none, outcome := none }) fun _ => rfl)
  refine ⟨Calm.closeStandDown b, fun t c hc => ?_, fun t => ?_⟩
  · obtain ⟨out, e⟩ := closeStandDown_eq b t
    rw [e]; exact (k out).others t c hc
  · obtain ⟨out, e⟩ := closeStandDown_eq b t
    rw [e]; exact (k out).own t

theorem LogStep.closureLog (b : BuildingId) : LogStep b (State.closureLog b) := by
  have hclear : LogStep b (State.onBuilding b fun r => { r with profile := none, outcome := none }) :=
    LogStep.onBuilding b _ fun _ => rfl
  have hopened : LogStep b fun t =>
      (t.openRecord b true none (some t.stamp)).onBuilding b fun r => { r with evacFrom := some t.now } := by
    refine ⟨fun t => (Calm.openRecord _ _ _ _ t).trans (Calm.onBuilding _ _ _), fun t c hc => ?_, fun t => ?_⟩
    · rw [onBuilding_core b c _ _ hc]; exact (LogStep.openRecord b true none (some t.stamp)).others t c hc
    · have k := (LogStep.openRecord b true none (some t.stamp)).comp
        (LogStep.onBuilding b (fun r => { r with evacFrom := some t.now }) fun _ => rfl)
      exact k.own t
  refine ⟨Calm.closureLog b, fun t c hc => ?_, fun t => ?_⟩
  all_goals
    unfold State.closureLog
    dsimp only
    split
    · split
      · first | exact hclear.others t c hc | exact hclear.own t
      · first
          | exact (((LogStep.closeRecord b .interruptedByAlarm).comp hopened).comp hclear).others t c hc
          | exact (((LogStep.closeRecord b .interruptedByAlarm).comp hopened).comp hclear).own t
    · first | exact (hopened.comp hclear).others t c hc | exact (hopened.comp hclear).own t

/-! ### Stand-downs, signals, and whole events -/

theorem closeStandDown_serial (b : BuildingId) (s : State) : (s.closeStandDown b).drill.serial = s.drill.serial := by
  obtain ⟨out, e⟩ := closeStandDown_eq b s
  rw [e]
  show (s.closeRecord b out).drill.serial = _
  unfold State.closeRecord
  dsimp only
  split
  · rfl
  · split
    · rfl
    · show (State.report _ _).drill.serial = _
      rw [(Reported.report _ _).same]; rfl

theorem Downs.endStandDown (b : BuildingId) (s : State) : Downs s (s.endStandDown b) := by
  unfold State.endStandDown
  split
  case isFalse => exact Downs.refl s
  rename_i h
  simp only [Bool.and_eq_true, decide_eq_true_eq] at h
  have k := moved_core b (s.standDownMove b) (LogStep.closeStandDown b) s
  have o := moved_own (LogStep.closeStandDown b) k
  generalize s.transitionCore b (s.standDownMove b) = t at k o ⊢
  refine Downs.make k.toCalm (fun c hc => ?_) (fun c hc => ?_) ?_ fun n => absurd h.1.1 (n b)
  · exact k.others c fun e => hc (e ▸ h.1.1)
  · by_cases e : c = b
    · subst e
      have := congrArg Building.state o
      have o1 := congrArg Building.sources o
      have o2 := congrArg Building.contact o
      have o3 := congrArg Building.muster o
      refine .inr ⟨?_, o1, o2, o3⟩
      have e2 : (t.building c).state = (s.standDownMove c).new := this
      rw [e2]
      unfold State.standDownMove
      dsimp only
      split
      · exact .inl rfl
      · exact .inr rfl
    · exact .inl (k.others c e)
  · obtain ⟨u, -, -, hu, -, -, -, ht⟩ := k.step
    rw [ht, ← hu]
    exact closeStandDown_serial b u

theorem Downs.drainStandDowns (k : Nat) : ∀ s : State, Downs s (s.drainStandDowns k) := by
  induction k with
  | zero => exact Downs.refl
  | succ k ih =>
    intro s
    unfold State.drainStandDowns
    split
    · exact Downs.refl s
    · exact ((Voice.onWork _ _).downs.trans (Downs.endStandDown _ _)).trans (ih _)

theorem Downs.askAgain (b : BuildingId) (s : State) : Downs s (s.askAgain b) := by
  unfold State.askAgain
  split
  · exact (Voice.askSignal _ _).downs
  · exact Downs.refl s

theorem Downs.settleSignals (k : Nat) : ∀ s : State, Downs s (s.settleSignals k) := by
  induction k with
  | zero => exact Downs.refl
  | succ k ih =>
    intro s
    unfold State.settleSignals
    dsimp only
    split
    · refine Downs.trans ?_ (ih _)
      exact Downs.each _ _ ((Downs.drainStandDowns _ _).trans (Voice.onWork _ _).downs) Downs.askAgain
    · exact Downs.drainStandDowns _ _

/-- What is left of an event leaves the record of every building that is not standing down. -/
theorem Downs.whole (s : State) : Downs s s.whole :=
  (Downs.settleSignals _ _).trans (Fewer.noteSelections _).voice.downs

/-- A transition, with the stand-downs it ends, is one transition followed by what stand-downs do. -/
theorem transition_parts (b : BuildingId) (m : Move) (h : LogStep b m.log) (s : State) :
    ∃ u, Moved b m s u ∧ Downs u (s.transition b m) :=
  ⟨_, moved_core b m h s, Downs.drainStandDowns 12 _⟩

end Sys2Proof.Machine
end

