-- ==== Sys2Proof/Laws/Requests.lean ====
section
/-! SUPPORT. The retained block's keeping, the posting and the take of a request, what a completion leaves in its cell, and what leaving the instant of a boundary does. -/

namespace Sys2Proof.Machine

/-! ### Keeping the retained block current -/

theorem keep_eq (s : State) : s.keep = { s with power := { s.power with retained := s.keep.power.retained } } := by
  unfold State.keep
  split
  · rfl
  · split
    · rfl
    · split <;> rfl

@[simp] theorem keep_time (s : State) : s.keep.time = s.time := by rw [keep_eq]
@[simp] theorem keep_cal (s : State) : s.keep.cal = s.cal := by rw [keep_eq]
@[simp] theorem keep_bell (s : State) : s.keep.bell = s.bell := by rw [keep_eq]
@[simp] theorem keep_router (s : State) : s.keep.router = s.router := by rw [keep_eq]
@[simp] theorem keep_tone (s : State) : s.keep.tone = s.tone := by rw [keep_eq]
@[simp] theorem keep_drill (s : State) : s.keep.drill = s.drill := by rw [keep_eq]
@[simp] theorem keep_line (s : State) : s.keep.line = s.line := by rw [keep_eq]
@[simp] theorem keep_scan (s : State) : s.keep.scan = s.scan := by rw [keep_eq]
@[simp] theorem keep_rh (s : State) : s.keep.rh = s.rh := by rw [keep_eq]
@[simp] theorem keep_mem (s : State) : s.keep.mem = s.mem := by rw [keep_eq]
@[simp] theorem keep_pins (s : State) : s.keep.pins = s.pins := by rw [keep_eq]
@[simp] theorem keep_work (s : State) : s.keep.work = s.work := by rw [keep_eq]
@[simp] theorem keep_pending (s : State) : s.keep.pending = s.pending := by rw [keep_eq]
@[simp] theorem keep_power_supplied (s : State) : s.keep.power.supplied = s.power.supplied := by rw [keep_eq]
@[simp] theorem keep_power_resetAsserted (s : State) : s.keep.power.resetAsserted = s.power.resetAsserted := by rw [keep_eq]
@[simp] theorem keep_power_mains (s : State) : s.keep.power.mains = s.power.mains := by rw [keep_eq]
@[simp] theorem keep_power_qualEighths (s : State) : s.keep.power.qualEighths = s.power.qualEighths := by rw [keep_eq]
@[simp] theorem keep_power_qualCross (s : State) : s.keep.power.qualCross = s.power.qualCross := by rw [keep_eq]
@[simp] theorem keep_power_freq (s : State) : s.keep.power.freq = s.power.freq := by rw [keep_eq]
@[simp] theorem keep_power_crossings (s : State) : s.keep.power.crossings = s.power.crossings := by rw [keep_eq]
@[simp] theorem keep_power_windowCross (s : State) : s.keep.power.windowCross = s.power.windowCross := by rw [keep_eq]
@[simp] theorem keep_power_windowWhole (s : State) : s.keep.power.windowWhole = s.power.windowWhole := by rw [keep_eq]
@[simp] theorem keep_power_windowDue (s : State) : s.keep.power.windowDue = s.power.windowDue := by rw [keep_eq]
@[simp] theorem keep_power_power (s : State) : s.keep.power.power = s.power.power := by rw [keep_eq]
@[simp] theorem keep_power_part (s : State) : s.keep.power.part = s.power.part := by rw [keep_eq]
@[simp] theorem keep_power_cause (s : State) : s.keep.power.cause = s.power.cause := by rw [keep_eq]
@[simp] theorem keep_power_validAtStart (s : State) : s.keep.power.validAtStart = s.power.validAtStart := by rw [keep_eq]
@[simp] theorem keep_power_dstChanged (s : State) : s.keep.power.dstChanged = s.power.dstChanged := by rw [keep_eq]
@[simp] theorem keep_power_outcomes (s : State) : s.keep.power.outcomes = s.power.outcomes := by rw [keep_eq]
@[simp] theorem keep_power_images (s : State) : s.keep.power.images = s.power.images := by rw [keep_eq]
@[simp] theorem keep_power_changed (s : State) : s.keep.power.changed = s.power.changed := by rw [keep_eq]
@[simp] theorem keep_power_storeOp (s : State) : s.keep.power.storeOp = s.power.storeOp := by rw [keep_eq]
@[simp] theorem keep_power_eeprom (s : State) : s.keep.power.eeprom = s.power.eeprom := by rw [keep_eq]
@[simp] theorem keep_zone (s : State) (z : ZoneId) : s.keep.zone z = s.zone z := by rw [keep_eq]; rfl
@[simp] theorem keep_sess (s : State) (n : SessId) : s.keep.sess n = s.sess n := by rw [keep_eq]; rfl
@[simp] theorem keep_building (s : State) (b : BuildingId) : s.keep.building b = s.building b := by rw [keep_eq]; rfl
@[simp] theorem keep_clock (s : State) (l : LineId) : s.keep.clock l = s.clock l := by rw [keep_eq]; rfl
@[simp] theorem keep_gen (s : State) (g : GenId) : s.keep.gen g = s.gen g := by rw [keep_eq]; rfl
@[simp] theorem keep_player (s : State) (p : PlayerId) : s.keep.player p = s.player p := by rw [keep_eq]; rfl
@[simp] theorem keep_console (s : State) (c : ConsoleId) : s.keep.console c = s.console c := by rw [keep_eq]; rfl
@[simp] theorem keep_channel (s : State) (k : ChannelId) : s.keep.channel k = s.channel k := by rw [keep_eq]; rfl
@[simp] theorem keep_up (s : State) : s.keep.up = s.up := by rw [keep_eq]; rfl
@[simp] theorem keep_now (s : State) : s.keep.now = s.now := by rw [keep_eq]; rfl
@[simp] theorem keep_drives (s : State) : s.keep.drives = s.drives := by rw [keep_eq]; rfl

theorem Pages.keep {s t : State} (h : Pages s t) : Pages s t.keep :=
  h.trans (Pages.of_eq (keep_rh t) (keep_mem t))

theorem SoundSide.keep {s t : State} (h : SoundSide s t) : SoundSide s t.keep := by
  refine ⟨?_, ?_, ?_, ?_, ?_, ?_, ?_, ?_, ?_, ?_, ?_, ?_, ?_, ?_, ?_, ?_⟩
  case refine_5 =>
    rw [keep_eq]
    dsimp only
    rw [h.power]
  all_goals simp only [keep_time, keep_cal, keep_line, keep_scan, keep_pins, keep_pending, keep_bell, keep_tone,
    keep_drill, keep_router, keep_zone, keep_console]
  · exact h.time
  · exact h.cal
  · exact h.line
  · exact h.scan
  · exact h.pins
  · exact h.pending
  · exact h.programs
  · exact h.patterns
  · exact h.profiles
  · exact h.maps
  · exact h.layout
  · exact h.groups
  · exact h.zones
  · exact h.consoles
  · exact h.sessions

theorem DrillSide.keep {s t : State} (h : DrillSide s t) : DrillSide s t.keep := by
  refine ⟨?_, ?_, ?_, ?_⟩
  all_goals simp only [keep_building, keep_drill, keep_bell, keep_router]
  · exact h.cores
  · exact h.ends
  · exact h.serial
  · exact h.still

theorem Sounded.keep {s t : State} (h : Sounded s t) : Sounded s t.keep := ⟨h.sound.keep, h.pages.keep, h.drill.keep⟩

theorem LineSide.keep {s t : State} (h : LineSide s t) : LineSide s t.keep := by
  unfold LineSide at h ⊢
  rw [keep_eq]
  dsimp only
  obtain ⟨l, c, r, m, p, rfl⟩ : ∃ l c r m p, t = { s with line := l, scan := c, rh := r, mem := m, power := p } :=
    ⟨_, _, _, _, _, h⟩
  have e : p = { s.power with retained := p.retained } := congrArg State.power h
  dsimp only
  rw [e]

theorem OnLines.lineSide {s t : State} (h : OnLines s t) : LineSide s t := by
  unfold LineSide
  have e : t.power = s.power := by rw [h.same]
  have e2 : ({ s.power with retained := t.power.retained } : PowerMon) = s.power := by rw [e]
  rw [e2]
  exact h.same

/-! ### A posted request -/

theorem post_word (i : CellId) (k : ReqKind) (tag : Word) (params : List Byte) (m : Mem) :
    (m.post i k tag params).readWord (cellBase i) = BitVec.ofNat 16 (1 + 256 * k.num) := by
  have h : leBytes 2 (1 + 256 * k.num) = wordBytes (BitVec.ofNat 16 (1 + 256 * k.num)) := by
    cases k <;> rfl
  unfold Mem.post
  rw [h, readWord_write]

theorem post_tag (i : CellId) (k : ReqKind) (tag : Word) (params : List Byte) (m : Mem) :
    (m.post i k tag params).readWord (cellBase i + 2) = tag := by
  unfold Mem.post
  have h : leBytes 2 (1 + 256 * k.num) = wordBytes (BitVec.ofNat 16 (1 + 256 * k.num)) := by
    cases k <;> rfl
  rw [h, readWord_write_out _ _ _ _ (.inr (by simp)), readWord_write]

theorem post_params (i : CellId) (k : ReqKind) (tag : Word) (params : List Byte) (m : Mem) :
    (m.post i k tag params).readBytes (cellBase i + 8) paramBytes = fit paramBytes params := by
  unfold Mem.post
  rw [readBytes_write_out _ _ _ _ _ (.inr (by simp)), readBytes_write_out _ _ _ _ _ (.inr (by simp))]
  have h := readBytes_write m (cellBase i + 8) (fit paramBytes params)
  rwa [fit_length] at h

/-- A request posted in a cell that is free is judged with its own kind, tag and parameters (R173, R174). -/
theorem postAndTake_eq (i : CellId) (k : ReqKind) (tag : Word) (params : List Byte) (s : State) (h : s.takes i) :
    s.postAndTake i k tag params = (s.posted i k tag params).carryOut i ⟨k.num, tag, fit paramBytes params⟩ := by
  obtain ⟨hu, hf⟩ := h
  have hb : s.busServed = true := by
    simp only [State.up, Bool.and_eq_true] at hu
    simp only [State.busServed, Bool.and_eq_true]
    exact ⟨hu.1.1, hu.2⟩
  have hu2 : (s.onMem (Mem.post i k tag params)).up = true := hu
  unfold State.postAndTake
  rw [if_pos hb]
  dsimp only
  rw [if_pos hu2]
  unfold State.sweepCell
  have hf2 : ((s.onMem (Mem.post i k tag params)).rh.cells.at i).inFlight = false := hf
  rw [hf2]
  simp only [Bool.false_eq_true, if_false, onMem_mem, post_word]
  have hk : (BitVec.ofNat 16 (1 + 256 * k.num)).toNat % 16 = 1 := by cases k <;> rfl
  rw [if_pos hk]
  have hc : (s.onMem (Mem.post i k tag params)).copyOf i (BitVec.ofNat 16 (1 + 256 * k.num)) =
      ⟨k.num, tag, fit paramBytes params⟩ := by
    unfold State.copyOf
    rw [onMem_mem, post_tag, post_params]
    have : (BitVec.ofNat 16 (1 + 256 * k.num)).toNat / 256 = k.num := by cases k <;> rfl
    rw [this]
  rw [hc]
  rfl

theorem reqKindOf_num (k : ReqKind) : reqKindOf k.num = some k := by cases k <;> rfl

/-- What the take of a posted request comes to. -/
theorem postAndTake_route (i : CellId) (k : ReqKind) (tag : Word) (params : List Byte) (s : State) (h : s.takes i) :
    s.postAndTake i k tag params =
      match (s.posted i k tag params).route i k ⟨k.num, tag, fit paramBytes params⟩ with
      | (t, some a) => (if a.code.done && k.sounds then t.whole else t).complete i k.num tag a
      | (t, none) => t := by
  rw [postAndTake_eq i k tag params s h]
  unfold State.carryOut State.judgeRequest State.afterTake
  dsimp only
  rw [reqKindOf_num] <;> rfl

theorem posted_read (i : CellId) (k : ReqKind) (tag : Word) (params : List Byte) (s : State) (a : Nat)
    (h : a < cellBase i ∨ cellBase i + 64 ≤ a) : (s.posted i k tag params).mem.read a = s.mem.read a := by
  unfold State.posted Mem.postTaken Mem.post
  rw [onMem_mem]
  rw [read_write_out _ _ _ _ (by simp; omega), read_write_out _ _ _ _ (by simp; omega),
    read_write_out _ _ _ _ (by simp; omega), read_write_out _ _ _ _ (by simp [paramBytes]; omega)]

/-! ### A completed request -/

theorem answer_word (i : CellId) (kind : Nat) (tag count : Word) (a : Answer) (m : Mem) :
    (m.answer i kind tag count a).readWord (cellBase i) = BitVec.ofNat 16 (finalWord kind a.code) := by
  have h : leBytes 2 (finalWord kind a.code) = wordBytes (BitVec.ofNat 16 (finalWord kind a.code)) := by
    generalize finalWord kind a.code = v
    simp only [wordBytes, leBytes, BitVec.toNat_ofNat, List.cons.injEq, and_true]
    constructor
    · apply BitVec.eq_of_toNat_eq; simp only [BitVec.toNat_ofNat]; omega
    · apply BitVec.eq_of_toNat_eq; simp only [BitVec.toNat_ofNat]; omega
  unfold Mem.answer
  rw [h, readWord_write]

/-- Two bytes of a write of words read back as their word. -/
theorem readWord_append (m : Mem) (base : Nat) (xs : List Byte) (w : Word) (ys : List Byte) :
    (m.write base (xs ++ wordBytes w ++ ys)).readWord (base + xs.length) = w := by
  have hl : (xs ++ wordBytes w ++ ys).length = xs.length + 2 + ys.length := by simp; omega
  have e1 : base + xs.length + 1 - base = xs.length + 1 := by omega
  have e2 : base + xs.length - base = xs.length := by omega
  have g : ∀ i, i < 2 → (xs ++ wordBytes w ++ ys).getD (xs.length + i) 0 = (wordBytes w).getD i 0 := by
    intro i hi
    have h2 : (wordBytes w).length = 2 := rfl
    simp only [List.getD_eq_getElem?_getD, List.append_assoc]
    rw [List.getElem?_append_right (by omega), Nat.add_sub_cancel_left, List.getElem?_append_left (by omega)]
  unfold Mem.readWord
  rw [read_write, read_write, hl, if_pos ⟨by omega, by omega⟩, if_pos ⟨by omega, by omega⟩, e1, e2, g 1 (by omega)]
  have g0 := g 0 (by omega)
  rw [Nat.add_zero] at g0
  rw [g0]
  have hw := readWord_write [] 0 w
  unfold Mem.readWord at hw
  rw [read_write, read_write] at hw
  exact hw

theorem Answered.complete {i : CellId} {k : ReqKind} {tag : Word} {a : Answer} {s u : State}
    (hc : u.rh.cells = s.rh.cells)
    (hn : ∀ b, Mask.has s.rh.notice b = true → Mask.has u.rh.notice b = true)
    (hr : u.rh.noticeEnable = s.rh.noticeEnable ∧ u.rh.sweepCount = s.rh.sweepCount ∧ u.rh.writerOn = s.rh.writerOn)
    (hm : s.rh.fits → ∀ x, hostArea x → (x < cellBase i ∨ cellBase i + 64 ≤ x) → u.mem.read x = s.mem.read x) :
    Answered i k tag a s (u.complete i k.num tag a) := by
  have em : (u.complete i k.num tag a).mem = Mem.answer i k.num tag ((u.rh.cells.at i).count + 1) a u.mem := rfl
  have er : (u.complete i k.num tag a).rh.cells = u.rh.cells.put i ⟨false, (u.rh.cells.at i).count + 1⟩ := rfl
  refine ⟨?_, ?_, ?_, ?_, ?_, ?_, ?_, ?_, ?_, ?_⟩
  · rw [em, answer_word]
  · rw [em]; unfold Mem.answer
    rw [readWord_write_out _ _ _ _ (.inr (by simp))]
    exact readWord_append _ _ [] tag (wordBytes a.detail ++ wordBytes ((u.rh.cells.at i).count + 1))
  · rw [em]; unfold Mem.answer
    rw [readWord_write_out _ _ _ _ (.inr (by simp))]
    exact readWord_append _ (cellBase i + 2) (wordBytes tag) a.detail (wordBytes ((u.rh.cells.at i).count + 1))
  · rw [em]; unfold Mem.answer
    rw [readWord_write_out _ _ _ _ (.inr (by simp)), ← hc]
    have := readWord_append (u.mem.write (cellBase i + 48) (fit 16 a.result)) (cellBase i + 2)
      (wordBytes tag ++ wordBytes a.detail) ((u.rh.cells.at i).count + 1) []
    simpa using this
  · rw [em]; unfold Mem.answer
    rw [readBytes_write_out _ _ _ _ _ (.inr (by simp)), readBytes_write_out _ _ _ _ _ (.inr (by simp))]
    have h := readBytes_write u.mem (cellBase i + 48) (fit 16 a.result)
    rwa [fit_length] at h
  · rw [er, hc]
  · exact by
      show Mask.has (Mask.add u.rh.notice 0) 0 = true
      simp [Mask.has, Mask.add, Mask.one]
  · intro b hb
    have := hn b hb
    show Mask.has (Mask.add u.rh.notice 0) b = true
    simp only [Mask.has, Mask.add, BitVec.getLsbD_or] at this ⊢
    rw [this, Bool.true_or]
  · exact hr
  · intro f x hx ho
    rw [em]; unfold Mem.answer
    rw [read_write_out _ _ _ _ (by simp; omega), read_write_out _ _ _ _ (by simp; omega),
      read_write_out _ _ _ _ (by simp; omega)]
    exact hm f x hx ho

theorem Answered.keep {i : CellId} {k : ReqKind} {tag : Word} {a : Answer} {s t : State} (h : Answered i k tag a s t) :
    Answered i k tag a s t.keep :=
  ⟨by rw [keep_mem]; exact h.word, by rw [keep_mem]; exact h.tag, by rw [keep_mem]; exact h.detail,
    by rw [keep_mem]; exact h.count, by rw [keep_mem]; exact h.result, by rw [keep_rh]; exact h.cells,
    by rw [keep_rh]; exact h.notice, by rw [keep_rh]; exact h.gained,
    by rw [keep_rh]; exact h.regs, by rw [keep_mem]; exact h.others⟩

/-- A request answered at once, its effect one that keeps Pages: what the host finds, and the state but for the
cell. -/
theorem answered_take {i : CellId} {k : ReqKind} {tag : Word} {params : List Byte} {a : Answer} {s u : State}
    (h : Pages (s.posted i k tag params) u) : Answered i k tag a s (u.complete i k.num tag a).keep := by
  refine (Answered.complete (s := s) h.cells h.notices ⟨h.enable, h.sweeps, h.writer⟩ fun f x hx ho => ?_).keep
  rw [h.areas f x hx, posted_read i k tag params s x ho]

/-! ### Leaving the instant of a boundary (R150, R151) -/

/-- What leaving an instant, and an event between boundaries, do: only the lines, the Scanner and the mark move. -/
theorem askSelect_eq (l : LineId) (s : State) :
    s.askSelect l = { s with line := (s.askSelect l).line, scan := (s.askSelect l).scan } := by
  unfold State.askSelect; split <;> rfl

theorem leaveInstant_eq (s : State) :
    s.leaveInstant = { s with line := s.leaveInstant.line, scan := s.leaveInstant.scan } := by
  have each (ls : List LineId) (t : State) : t.each ls State.askSelect =
      { t with line := (t.each ls State.askSelect).line, scan := (t.each ls State.askSelect).scan } := by
    induction ls generalizing t with
    | nil => rfl
    | cons l ls ih =>
      have h : t.each (l :: ls) State.askSelect = (t.askSelect l).each ls State.askSelect := rfl
      rw [h, ih (t.askSelect l)]
      rw [askSelect_eq l t]
  unfold State.leaveInstant
  dsimp only
  split
  · exact congrArg (fun t => State.onScan Scanner.takeScan t) (each _ s)
  · exact each _ s

theorem between_eq (s : State) : s.between = { s with
    line := s.between.line, scan := s.between.scan, time := { s.time with atBoundary := false } } := by
  unfold State.between; rw [leaveInstant_eq]; rfl

/-- Where no select request is due and no scan waits, an instant is left as it stands. -/
theorem leaveInstant_of_calm {s : State} (h : ∀ l, s.selectDue l = false) (w : s.scan.scanDue = false) :
    s.leaveInstant = s := by
  have each (ls : List LineId) : s.each ls State.askSelect = s := by
    induction ls with
    | nil => rfl
    | cons l ls ih =>
      have e : s.askSelect l = s := by unfold State.askSelect; rw [h l]; rfl
      exact (congrArg (fun t : State => t.each ls State.askSelect) e).trans ih
  unfold State.leaveInstant
  simp only [each]
  split
  · unfold State.onScan Scanner.takeScan; rw [w]; rfl
  · rfl

@[simp] theorem between_cal (s : State) : s.between.cal = s.cal := by rw [between_eq]
@[simp] theorem between_bell (s : State) : s.between.bell = s.bell := by rw [between_eq]
@[simp] theorem between_router (s : State) : s.between.router = s.router := by rw [between_eq]
@[simp] theorem between_tone (s : State) : s.between.tone = s.tone := by rw [between_eq]
@[simp] theorem between_drill (s : State) : s.between.drill = s.drill := by rw [between_eq]
@[simp] theorem between_power (s : State) : s.between.power = s.power := by rw [between_eq]
@[simp] theorem between_rh (s : State) : s.between.rh = s.rh := by rw [between_eq]
@[simp] theorem between_mem (s : State) : s.between.mem = s.mem := by rw [between_eq]
@[simp] theorem between_pins (s : State) : s.between.pins = s.pins := by rw [between_eq]
@[simp] theorem between_work (s : State) : s.between.work = s.work := by rw [between_eq]
@[simp] theorem between_pending (s : State) : s.between.pending = s.pending := by rw [between_eq]
@[simp] theorem between_time (s : State) : s.between.time = { s.time with atBoundary := false } := by rw [between_eq]

/-- A scan that waits has been taken, and only the converter can have moved. -/
theorem takeScan_eq (r : Scanner) : r.takeScan = { r with converter := r.takeScan.converter, scanDue := false } := by
  unfold Scanner.takeScan Scanner.scan
  split
  · split <;> rfl
  · rename_i h
    simp only [Bool.not_eq_true] at h
    rw [← h]

/-- Of a start inside a command only the retained block is written. -/
theorem keepValid_eq (s : State) :
    s.keepValid = { s with power := { s.power with retained := s.keepValid.power.retained } } := by
  unfold State.keepValid; split
  · exact keep_eq s
  · rfl

/-- What RESET_ASSERT's outputs touch (R164). -/
theorem outputsOff_eq (s : State) : s.outputsOff =
    { s with router := s.outputsOff.router, tone := s.outputsOff.tone, line := s.outputsOff.line } := rfl

end Sys2Proof.Machine
end

