-- ==== Sys2Proof/Tests/Slice0.lean ====
section
/-! SUPPORT. The model's own tests: what the well-formedness checks refuse, the spec's worked examples, a few steps on small states, and for each statement with hypotheses a state and operands that meet them. -/

namespace Sys2Proof.Tests

-- One theorem after the other: waiting side by side for the kernel, these take a stack of memory each.
set_option Elab.async false

open Sys2Proof Sys2Proof.Machine

/-! ### States to test on -/

/-- A part in RUNNING under mains power, its time set. -/
def ready : State :=
  { State.reset with
    power := { PowerMon.reset with part := .running, power := .normal, mains := .present }
    rh := { ReqHandler.start 0 with writerOn := true }, time := { TimeBase.cold with quality := .free } }

/-- `ready` at an elapsed count. -/
def readyAt (n : Nat) : State := ready.onTime fun r => { r with elapsed := n }

/-- A session of a class from a source, on zone 0. -/
def talker (cls : Cls) (src : Source) : Session :=
  { cls := cls, origin := .request 0 7, source := src, state := .active, duration := some 40, deferLimit := 0
    createdAt := 0, seq := 0, activeAt := some 0, pausedAt := none, requested := 1, connected := 1, waiting := 0
    deferred := 0, held := 0, lost := 0, refNotAdmitted := 0, refFaulted := 0, refSuppressed := 0, ever := 1 }

/-- Session 0 on zone 0. -/
def withTalker (x : Session) (s : State) : State :=
  (s.setSess 0 (some x)).onZone 0 fun r => { r with occupant := some 0 }

/-- A MINUTE line in IN_STEP at position 0. -/
def dial : Line := { Line.disabled with kind := .minute, q := 12, w := 3, display := some 0, state := .inStep }

/-- Line 0 as given. -/
def withDial (r : Line) (s : State) : State := s.onClock 0 fun _ => r

/-- A pulse on a dial. -/
def pulse : Impulse := ⟨.normal, false, [], 0, 3, .a, false, none, false⟩

/-- A drill of building 0 in a state with a timer. -/
def drilling (st : BState) (tm : Option (TimerKind × Nat)) : State :=
  ready.onBuilding 0 fun r => { r with state := st, profile := some 0, timer := tm, openRec := some 0, evacFrom := some 0 }

/-! ### Well-formedness -/

theorem test_page_of_65_bytes_refused : Instr.wf (.savePageWrite (.readsBack (List.replicate 65 0))) = false := by decide
theorem test_page_of_64_bytes_taken : Instr.wf (.savePageWrite (.readsBack (List.replicate 64 0))) = true := by decide
theorem test_write_of_notice_is_no_other_register : Instr.wf (.registerWriteOther 0x2001 5) = false := by decide
theorem test_write_of_sweep_is_no_other_register : Instr.wf (.registerWriteOther 0x2003 5) = false := by decide
theorem test_write_of_ident_is_another_register : Instr.wf (.registerWriteOther 0x2000 5) = true := by decide
theorem test_untorn_supply_failure_refused : Instr.wf (.supplyFailure 0) = false := by decide

/-! ### The spec's worked values -/

/-- R97: dividers of the built-in patterns' tones. -/
theorem test_divider_950 : dividerOf 950 = 552 := by decide
theorem test_divider_clamped : dividerOf 100 = dividerOf 200 ∧ dividerOf 9000 = 131 := by decide
/-- R18: 2000-01-01 is day 0, a Saturday; 2099-12-31 is day 36524; 2100-01-01 is day 36525. -/
theorem test_day_zero : dateOf 0 = ⟨2000, 1, 1⟩ ∧ weekdayOf 0 = 6 := by decide
theorem test_last_day : dateOf 36524 = ⟨2099, 12, 31⟩ ∧ dateOf 36525 = ⟨2100, 1, 1⟩ := by decide
theorem test_leap_day : dateOf (dayNumber ⟨2028, 2, 29⟩) = ⟨2028, 2, 29⟩ ∧ Date.valid ⟨2027, 2, 29⟩ = false := by decide
/-- R15: the last Sunday of March 2027 is the 28th, and of October the 31st. -/
theorem test_last_sunday_of_march : dateOf (transitionDay ⟨3, 5, 0, 1⟩ 2027) = ⟨2027, 3, 28⟩ := by decide
theorem test_last_sunday_of_october : dateOf (transitionDay ⟨10, 5, 0, 1⟩ 2027) = ⟨2027, 10, 31⟩ := by decide
/-- R133: one minute behind is advanced, one minute ahead is held. -/
theorem test_lag_of_one_advances : decisionOf 720 480 12 0 1 = ⟨.advance, 1, 719, 13⟩ := by decide
theorem test_lead_of_one_holds : decisionOf 720 480 12 8 719 = ⟨.hold, 719, 1, 472⟩ := by decide
/-- 12.1: words of cells. -/
theorem test_word_of_refused_hush : finalWord ReqKind.hush.num .state = 4 + 16 * 7 + 256 * 10 := by decide
/-- The table gives no bits. -/
theorem test_no_word_is_a_command : Sys2Proof.decodeTableWord 16 0x1234 = none := by decide

/-! ### Hypotheses that are met

One theorem or more for each statement that has hypotheses: for each of its clauses, a state and operands, at the edges
of their ranges, that meet them. -/

theorem test_StepRunsTheFrontCommand_met : ready.pending = [] := rfl

theorem test_RetainedBlockStaysCurrent_met :
    (ready.keep.setPending [.zeroCrossing]).blockCurrent ∧
      ∃ t, step (ready.keep.setPending [.zeroCrossing]) = .next t := ⟨fun _ _ => rfl, _, rfl⟩

theorem test_MemoriesAndPagesKeepTheirForm_met :
    let s := (ready.setPending [.pageAgeClose]).onRh fun r => { r with current := some ⟨0, 0, 30, 0, some 0⟩ };
    s.memoriesWf ∧ s.rh.fits ∧ ∃ t, step s = .next t := by
  intro s
  refine ⟨?_, ⟨by decide, fun c h => ?_⟩, _, rfl⟩
  · unfold State.memoriesWf; decide
  · cases h; decide

theorem test_ModesFollowOverridesAndQuiet_met :
    (ready.setPending [.overrideExpiry 63]).modesRight ∧ ∃ t, step (ready.setPending [.overrideExpiry 63]) = .next t :=
  ⟨by unfold State.modesRight; decide, _, rfl⟩

/-- Line 0 ADVANCING on the one grant of a budget of 1, line 7 waiting. -/
def oneGrant : State :=
  ((withDial { dial with state := .advancing, fastTimer := some 0 } ready).onClock 7
    fun _ => { dial with state := .advanceWait }).onLine fun d => { d with budget := 1, grants := [0], waiting := [7] }

theorem oneGrant_arbiterRight : oneGrant.line.arbiterRight :=
  ⟨by unfold LineDrv.withinBudget; decide, by decide, by decide, by decide, by decide⟩

theorem test_GrantsStayWithinTheBudget_met :
    (oneGrant.setPending [.fastImpulse 0]).line.arbiterRight ∧
      ∃ t, step (oneGrant.setPending [.fastImpulse 0]) = .next t := ⟨oneGrant_arbiterRight, _, rfl⟩

/-- A full list of overrides, of days 100 to 115. -/
def fullList : List DayOverride := (List.range 16).map fun k => ⟨100 + k, 3⟩

theorem test_OverridesAndQuietMarksStayRight_met :
    let s := (ready.onCal fun c => { c with overrides := fullList }).setPending [.pageAgeClose];
    s.overridesRight ∧ s.quietMarksRight ∧ ∃ t, step s = .next t := by
  intro s
  exact ⟨by unfold State.overridesRight overridesRight; decide, by unfold State.quietMarksRight; decide, _, rfl⟩

/-- Where there is no session and no zone is taken, the zones agree. -/
theorem zonesAgree_of_none {s : State} (h : ∀ n, s.sess n = none)
    (hz : ∀ z, (s.zone z).occupant = none ∧ (s.zone z).held = none) : s.zonesAgree := by
  refine ⟨fun n x e => (by rw [h n] at e; cases e), fun z n => ⟨?_, ?_⟩⟩
  · rw [(hz z).1]; exact ⟨fun e => (by cases e), fun ⟨_, e, _⟩ => (by rw [h n] at e; cases e)⟩
  · rw [(hz z).2]; exact ⟨fun e => (by cases e), fun ⟨_, e, _⟩ => (by rw [h n] at e; cases e)⟩

/-- Where no generator is used, no session waits and no building has a signal, the sources agree. -/
theorem soundsRight_of_none {s : State} (hg : ∀ g, (s.gen g).users = []) (hw : s.tone.waitList = [])
    (hb : ∀ b, (s.building b).signal = none) : s.soundsRight := by
  refine ⟨fun g n h => ?_, fun g => ⟨?_, fun h n e => ?_⟩, ⟨?_, fun n h => ?_⟩, fun _ b n h => ?_⟩
  · rw [hg] at h; cases h
  · rw [hg]; exact List.nodup_nil
  · rw [hg] at e; cases e
  · rw [hw]; exact List.nodup_nil
  · rw [hw] at h; cases h
  · rw [hb] at h; cases h

theorem talker_zonesAgree : (withTalker (talker .page (.console 0)) ready).zonesAgree := by
  have only : ∀ n x, (withTalker (talker .page (.console 0)) ready).sess n = some x →
      n = 0 ∧ x = talker .page (.console 0) := by
    intro n x h
    have h0 : ∀ n, n ≠ 0 → (withTalker (talker .page (.console 0)) ready).sess n = none := by decide
    by_cases e : n = 0
    · subst e; exact ⟨rfl, (Option.some.inj (h.symm.trans (by decide : _ = some (talker .page (.console 0)))))⟩
    · rw [h0 n e] at h; cases h
  have there : (withTalker (talker .page (.console 0)) ready).sess 0 = some (talker .page (.console 0)) := by decide
  refine ⟨fun n x h => ?_, fun z n => ⟨⟨fun h => ?_, fun ⟨x, h, c⟩ => ?_⟩, ⟨fun h => ?_, fun ⟨x, h, c⟩ => ?_⟩⟩⟩
  · obtain ⟨rfl, rfl⟩ := only n x h
    unfold Session.partitioned; decide
  · have := (by decide : ∀ z n, ((withTalker (talker .page (.console 0)) ready).zone z).occupant = some n →
      n = 0 ∧ Mask.has (1 : ZoneSet) z.val = true) z n h
    obtain ⟨rfl, c⟩ := this
    exact ⟨_, there, c⟩
  · obtain ⟨rfl, rfl⟩ := only n x h
    exact (by decide : ∀ z : ZoneId, Mask.has (1 : ZoneSet) z.val = true →
      ((withTalker (talker .page (.console 0)) ready).zone z).occupant = some 0) z c
  · exact ((by decide : ∀ z n, ((withTalker (talker .page (.console 0)) ready).zone z).held ≠ some n) z n h).elim
  · obtain ⟨rfl, rfl⟩ := only n x h
    exact ((by decide : ∀ z : ZoneId, ¬ Mask.has (0 : ZoneSet) z.val = true) z c).elim

theorem test_SessionsZonesAndSourcesAgree_met :
    let s := (withTalker (talker .page (.console 0)) ready).setPending [.sessionDurationEnd 0];
    s.zonesAgree ∧ s.soundsRight ∧ ∃ t, step s = .next t := by
  intro s
  exact ⟨talker_zonesAgree, soundsRight_of_none (by decide) (by decide) (by decide), _, rfl⟩

theorem test_ElapsedCountMovesOnlyWithEighths_met : ∃ t, exec .zeroCrossing ready = .next t := ⟨_, rfl⟩

/-- The starts: by supply, by the release of reset, by a RESTART (`test_restart`), by the mains after RETAINED
(`test_mains_after_retained`). -/
theorem test_ElapsedCountMovesOnlyWithEighths_starts :
    (∃ t, exec (.supplyApplied pinsAtRest) ready = .next t) ∧
    let s := ready.onPower fun p => { p with resetAsserted := true };
    (∃ t, exec (.resetRelease pinsAtRest) s = .next t) ∧ s.power.supplied = true ∧ s.power.resetAsserted = true :=
  ⟨⟨_, rfl⟩, ⟨_, rfl⟩, by decide⟩

/-- The time base of a second that is at eighth e, of a slew. -/
def slewing (rem : Int) (e : Nat) (again : Bool) (sec : Nat) : TimeBase :=
  { TimeBase.cold with stdSec := sec, eighth := e, again := again, adjusted := true, slewRem := rem }

/-- With supply and without; where nothing else runs; then its four clauses: not the last eighth, the second eighth 7, the
last eighth, the end of the range. -/
theorem test_EighthEndCounts_second_first :
    let s := State.reset.onTime fun _ => slewing 0 7 false 0;
    let inp : BoundaryInput := ⟨pinsAtRest, [], [], false, false, true⟩;
    inp.secondFirst = true ∧ s.power.supplied = true ∧ s.up = false ∧ s.power.power ≠ .retained ∧
      s.time.boundaryDue = false ∧ s.time.qualityTimer = none ∧ s.time.assembly = none ∧ 7 ≤ s.time.eighth ∧
      s.time.stdSec < 3155759999 ∧ ready.time.lastEighth = false := by decide

theorem test_EighthEndCounts_met :
    (ready.power.supplied = true ∧ (ready.onPower fun p => { p with supplied := false }).power.supplied = false) ∧
    (let s := State.reset.onTime fun _ => slewing (-1) 7 false 0;
      s.power.supplied = true ∧ s.up = false ∧ s.power.power ≠ .retained ∧ s.time.boundaryDue = false ∧
        s.time.qualityTimer = none ∧ s.time.assembly = none) ∧
    (let s := State.reset.onTime fun _ => slewing 2 5 false 0;
      ¬ 6 ≤ s.time.eighth ∧ s.time.eighth < 7 ∧ s.time.adjusted = true ∧ 0 < s.time.slewRem) ∧
    (let s := State.reset.onTime fun _ => slewing (-2) 7 false 0;
      (decide (7 ≤ s.time.eighth) && s.time.again) = false ∧ 7 ≤ s.time.eighth) ∧
    (let s := State.reset.onTime fun _ => slewing (-2) 7 true 3155759998;
      (decide (7 ≤ s.time.eighth) && s.time.again) = true ∧ s.time.stdSec < 3155759999) ∧
    (let s := State.reset.onTime fun _ => slewing 0 7 false 3155759999;
      7 ≤ s.time.eighth ∧ 3155759999 ≤ s.time.stdSec) := by decide

/-- A part at a standard second boundary after a standard second. -/
def atSecond (sec : Nat) : State := ready.onTime fun r => { r with boundaryDue := true, stdSec := sec }

theorem test_SecondBoundaryAndSlew_met :
    ((atSecond 86399).power.supplied = true ∧ (atSecond 86399).time.boundaryDue = true) ∧
      ready.time.boundaryDue = false ∧ (16 : Int) ≠ 0 ∧ (-2 : Int) ≠ 0 := by decide

theorem test_QualityPeriodsEndAndAreRecorded_met :
    (let s := (readyAt 57600).onTime fun r => { r with quality := .locked, qualityTimer := some 0 };
      s.power.supplied = true ∧ s.time.quality = .locked ∧ s.time.qualityTimer = some 0 ∧ 0 + 57600 ≤ s.time.elapsed) ∧
    (let s := (readyAt 2073600).onTime fun r => { r with quality := .holdover, qualityTimer := some 0 };
      s.power.supplied = true ∧ s.time.quality = .holdover ∧ s.time.qualityTimer = some 0 ∧
        0 + 2073600 ≤ s.time.elapsed) ∧
    (ready.time.quality ≠ .locked ∧ ready.time.quality ≠ .holdover) := by decide

theorem test_QualityPeriodsEndAndAreRecorded_not_yet :
    let s := (readyAt 57599).onTime fun r => { r with quality := .locked, qualityTimer := some 0 };
    ∀ since, s.time.qualityTimer = some since → s.time.elapsed < since + 57600 := by
  intro s since h
  cases h
  decide

/-- A page with 30 records takes one more and is closed. -/
theorem test_QualityPeriodsEndAndAreRecorded_page :
    let c : CurPage := ⟨7, 3, 30, 0, some 57590⟩
    let s := ((readyAt 57600).onTime fun r => { r with quality := .locked, qualityTimer := some 0 }).onRh
      fun r => { r with current := some c };
    s.up = true ∧ s.rh.writerOn = true ∧ s.time.quality = .locked ∧ s.time.qualityTimer = some 0 ∧
      0 + 57600 ≤ s.time.elapsed ∧ s.rh.current = some c ∧ c.count ≤ 30 := by decide

/-- A part whose queue holds records, all urgent or all routine, its next page not FREE. -/
def queueing (n : Nat) (urgent : Bool) : State :=
  (ready.onRh fun r => { r with queue := List.replicate n ⟨.dstDisagreement, urgent, .free, 0, 0⟩ }).onMem
    fun m => m.write (pageBase 0) [2]

/-- A page with room for one record. -/
def lastSlot : CurPage := ⟨7, 5, 30, 0, some 3⟩

theorem test_RecordsWaitForAPage_filling :
    (let s := ready.onRh fun r => { r with current := some lastSlot };
      s.rh.writerOn = true ∧ s.rh.current = some lastSlot ∧ lastSlot.count ≤ 30) ∧
    (let s := (queueing 32 false).onMem fun m => m.write (pageBase 0) [0];
      s.rh.current = none ∧ s.mem.readWord (pageBase s.rh.nextPage) = 0 ∧ (s.rh.queue.take 30).length = 30 ∧
        (∃ last, s.rh.queue = s.rh.queue.take 30 ++ last :: s.rh.queue.drop 31) ∧
        ∀ x ∈ s.rh.queue.take 30, x.urgent = false) ∧
    (∃ last rest, (queueing 2 true).rh.queue = [] ++ last :: rest ∧ last.urgent = true) ∧
    (queueing 2 true).up = true ∧ (queueing 2 true).rh.queue ≠ [] ∧
    ∀ j : CellId, ((queueing 2 true).mem.readWord (cellBase j)).toNat % 16 ≠ 1 :=
  ⟨by decide, ⟨by decide, by decide, by decide, ⟨_, rfl⟩, by decide⟩, ⟨_, _, rfl, rfl⟩, by decide, by decide, by decide⟩

theorem test_RecordsWaitForAPage_met :
    (ready.rh.writerOn = true ∧ ready.rh.current = none ∧ ready.mem.readWord (pageBase ready.rh.nextPage) = 0) ∧
    (let s := queueing 30 false;
      s.rh.queue ≠ [] ∧ s.rh.queue.length ≤ 30 ∧ ∀ x ∈ s.rh.queue, x.urgent = false) ∧
    ((queueing 31 false).mem.readWord (pageBase 0) ≠ 0 ∧ (queueing 31 false).rh.queue.length < 32) ∧
    ((queueing 32 true).mem.readWord (pageBase 0) ≠ 0 ∧ 32 ≤ (queueing 32 true).rh.queue.length ∧
      Report.dstDisagreement.urgent = false ∧ (Report.buildingState 0 .quiet .alarm .contact).urgent = true ∧
      (∀ x ∈ (queueing 32 true).rh.queue, x.urgent = true)) ∧
    ∃ x back, (queueing 32 false).rh.queue = [] ++ x :: back ∧ x.urgent = false := by
  refine ⟨by decide, by decide, by decide, by decide, _, _, rfl, rfl⟩

/-- The number of bits that are 1 in a byte, odd or even. -/
def ones (b : Byte) : Nat := ((List.finRange 8).filter fun i => b.getLsbD i.val).length

/-- A part that reads its standing image, or not, with a character held or none, and with a telegram begun. -/
theorem test_TelegramCharacters_met :
    (ready.power.supplied = true ∧ ready.power.power ≠ .retained ∧ ready.time.held = none ∧ ready.starting = false) ∧
    (State.reset.starting = true ∧ State.reset.power.supplied = true ∧ State.reset.power.power ≠ .retained ∧
      State.reset.time.held = none) ∧
    (let s := (readyAt 4).onTime fun r => { r with held := some ⟨⟨0x54, true, true⟩, 3⟩ };
      s.time.held = some ⟨⟨0x54, true, true⟩, 3⟩ ∧ s.time.assembly = none ∧ (0x39 : Byte).toNat ≤ 0x39) ∧
    (let s := (readyAt 8).onTime fun r => { r with assembly := some ⟨[0x54], 0⟩ };
      s.power.supplied = true ∧ s.power.power ≠ .retained ∧ s.time.assembly = some ⟨[0x54], 0⟩ ∧
        0 + 8 ≤ s.time.elapsed) := by decide

/-- Its clauses: wrong parity, wrong framing, a 'T', another character, and a 'T', a wrong and a right character of a
telegram begun. -/
theorem test_TelegramCharacters_clauses :
    ones 0x54 % 2 ≠ bitNum false ∧ (ones 0x54 % 2 = bitNum true ∧ (⟨0x54, true, false⟩ : RxChar).stop = false) ∧
    (ones 0x54 % 2 = bitNum true ∧ ready.time.assembly = none) ∧ (ones 0x30 % 2 = bitNum false ∧ (0x30 : Byte) ≠ 0x54) ∧
    (ones 0x57 % 2 = bitNum true ∧ (0x57 : Byte) ≠ 0x54 ∧ classAt 1 0x57 = false) ∧
    (ones 0x32 % 2 = bitNum true ∧ (0x32 : Byte) ≠ 0x54 ∧ classAt 1 0x32 = true ∧ [(0x54 : Byte)].length ≠ 19) := by
  decide

theorem test_TelegramCharacters_not_yet :
    let s := (readyAt 7).onTime fun r => { r with assembly := some ⟨[0x54], 0⟩ };
    ∀ a, s.time.assembly = some a → s.time.elapsed < a.since + 8 := by
  intro s a h
  cases h
  decide

/-- A hexadecimal digit's character. -/
def hexChar (v : Nat) : Byte := BitVec.ofNat 8 (if v ≤ 9 then 0x30 + v else 0x37 + v)

/-- A telegram but for its CR: "T", fourteen characters of date, weekday and time, the DST flag, "*", and the check of
them, or one that is wrong by a digit. -/
def telegramFor (digits : List Nat) (flag : Byte) (off : Nat := 0) : List Byte :=
  let d (k : Nat) : Byte := BitVec.ofNat 8 (0x30 + digits.getD k 0)
  let body : List Byte := [0x54, d 0, d 1, d 2, d 3, d 4, d 5, 0x57, d 6, d 7, d 8, d 9, d 10, d 11, d 12, flag, 0x2A]
  let c := (body.foldl (fun a b => a ^^^ b) 0).toNat
  body ++ [hexChar (c / 16), hexChar ((c + off) % 16)]

/-- "T270101W5120000S*49": 2027-01-01, a Friday, 12:00:00. -/
def telegram : List Byte := telegramFor [2, 7, 0, 1, 0, 1, 5, 1, 2, 0, 0, 0, 0] 0x53

theorem test_telegram_text : telegram =
    [0x54, 0x32, 0x37, 0x30, 0x31, 0x30, 0x31, 0x57, 0x35, 0x31, 0x32, 0x30, 0x30, 0x30, 0x30, 0x53, 0x2A, 0x34, 0x39] := by
  decide

/-- A part that waits for a telegram's CR. -/
def awaiting (cs : List Byte) : State := (readyAt 1000).onTime fun r => { r with assembly := some ⟨cs, 998⟩ }

/-- A part that waits for the telegram's CR, its own time at a standard second and eighth. -/
def expecting (q : Quality) (sec e : Nat) : State :=
  (awaiting telegram).onTime fun r => { r with
    quality := q, stdSec := sec, eighth := e, candidate := some ⟨852119940, 528⟩ }

/-- The digits of a complete telegram. -/
theorem test_CompleteTelegramsAreJudged_digits :
    let cs := telegram ++ [0x0D];
    let n (k : Nat) : Nat := [0, 2, 7, 0, 1, 0, 1, 0, 5, 1, 2, 0, 0, 0, 0].getD k 0;
    cs.length = 20 ∧ (∀ k ∈ [1, 2, 3, 4, 5, 6, 8, 9, 10, 11, 12, 13, 14],
      n k ≤ 9 ∧ cs[k]? = some (BitVec.ofNat 8 (0x30 + n k))) ∧ cs[17]? = some (hexChar 4) ∧ cs[18]? = some (hexChar 9) := by
  decide

theorem test_CompleteTelegramsAreJudged_met :
    let s := expecting .free 852120000 1;
    let ch : RxChar := ⟨0x0D, true, true⟩
    let g := telegramOf (telegram ++ [ch.data]);
    s.up = true ∧ s.time.held = none ∧ parityOk ch = true ∧ ch.stop = true ∧ ch.data = 0x0D ∧
      s.time.assembly = some ⟨telegram, 998⟩ ∧ telegram.length = 19 ∧ checkAgrees (telegram ++ [ch.data]) = true ∧
      g.date.valid = true ∧ g.hour ≤ 23 ∧ g.minute ≤ 59 ∧ g.second ≤ 59 ∧ g.weekday ≤ 6 ∧
      weekdayOf (dayNumber g.date) = g.weekday ∧
      dayNumber g.date * 86400 + g.hour * 3600 + g.minute * 60 + g.second = 852120000 ∧
      s.time.dst.inForceAt 852120000 = g.summer ∧ (expecting .free 852120000 1).time.candidate = some ⟨852119940, 528⟩ ∧
      852120000 = 852119940 + 60 ∧ 528 + 472 ≤ s.time.elapsed ∧ s.time.elapsed ≤ 528 + 488 := by decide

/-- The last second before a DST rule's gap, and its first: 2027-03-28 is a transition day at 01:00. -/
def springRule : DstRule := ⟨60, ⟨3, 5, 0, 1⟩, ⟨10, 5, 0, 1⟩⟩

/-- A wrong check, a minute of 60, a wrong weekday, a time in the gap with either reading, a time whose flag disagrees, and
a valid telegram without a candidate. -/
theorem test_CompleteTelegramsAreJudged_refusals :
    checkAgrees (telegramFor [2, 7, 0, 1, 0, 1, 5, 1, 2, 0, 0, 0, 0] 0x53 1 ++ [0x0D]) = false ∧
    (let cs := telegramFor [2, 7, 0, 1, 0, 1, 5, 1, 2, 6, 0, 0, 0] 0x53 ++ [0x0D];
      checkAgrees cs = true ∧ (telegramOf cs).minute = 60) ∧
    (let cs := telegramFor [2, 7, 0, 1, 0, 1, 6, 1, 2, 0, 0, 0, 0] 0x53 ++ [0x0D];
      checkAgrees cs = true ∧ weekdayOf (dayNumber (telegramOf cs).date) ≠ (telegramOf cs).weekday) ∧
    (let std := dayNumber ⟨2027, 3, 28⟩ * 86400 + 3600;
      springRule.inForceAt std = true ∧ springRule.inForceAt (std - 3600) = false ∧
        springRule.inForceAt (std + 3600) = true) ∧
    springRule.inForceAt 852120000 = false ∧ (awaiting telegram).time.candidate = none := by decide +kernel

/-- An offset of one eighth, of two, of sixteen, of seventeen, and UNSET time. -/
theorem test_CompleteTelegramsAreJudged_offsets :
    let d (s : State) : Nat := (8 * (852120000 : Int) - (8 * (s.time.stdSec : Int) + s.time.eighth)).natAbs;
    d (expecting .free 852120000 1) = 1 ∧ d (expecting .free 852120000 2) = 2 ∧
      d (expecting .holdover 852119998 0) = 16 ∧ d (expecting .locked 852119997 7) = 17 ∧
      (expecting .unset 5 0).time.quality = .unset := by decide

theorem test_TimeSetStepsOrIsRefused_met :
    (let s := ready.onTime fun r => { r with quality := .locked };
      s.takes 23 ∧ (Date.valid ⟨(2099 : Word).toNat, (12 : Byte).toNat, (31 : Byte).toNat⟩) = true ∧
        2000 ≤ (2099 : Word).toNat ∧ (2099 : Word).toNat ≤ 2099 ∧ (23 : Byte).toNat ≤ 23 ∧ (59 : Byte).toNat ≤ 59 ∧
        (1 : Byte).toNat ≤ 1 ∧ (s.time.quality = .locked → (1 : Byte).toNat = 1)) ∧
    ready.takes 0 ∧ ¬ (2000 ≤ (1999 : Word).toNat) ∧
      Date.valid ⟨(2027 : Word).toNat, (2 : Byte).toNat, (29 : Byte).toNat⟩ = false ∧
      (ready.onTime fun r => { r with quality := .locked }).time.quality = .locked ∧ (0 : Byte).toNat = 0 ∧
      ready.civil = ⟨0, 0, 0⟩ ∧ dayNumber ⟨2000, 1, 1⟩ = 0 := by
  unfold State.takes; decide

theorem test_DatesAndTransitionDays_met :
    36524 ≤ 36524 ∧ Date.valid ⟨2099, 12, 31⟩ = true ∧ Date.valid ⟨2100, 1, 1⟩ = true ∧
    (1 ≤ (⟨12, 5, 6, 3⟩ : TransRule).month ∧ (⟨12, 5, 6, 3⟩ : TransRule).month ≤ 12 ∧
      (⟨12, 5, 6, 3⟩ : TransRule).ordinal ≤ 5 ∧ (⟨12, 5, 6, 3⟩ : TransRule).weekday ≤ 6 ∧ 1 ≤ (⟨2, 1, 0, 1⟩ : TransRule).ordinal ∧
        (⟨2, 4, 0, 1⟩ : TransRule).ordinal ≤ 4) := by decide

theorem test_DayOverridesSetAndCleared_met :
    (ready.takes 0 ∧ ready.time.quality ≠ .unset ∧ Date.valid ⟨(2000 : Word).toNat, (1 : Byte).toNat, (1 : Byte).toNat⟩ = true ∧
      2000 ≤ (2000 : Word).toNat ∧ (2000 : Word).toNat ≤ 2099 ∧ (15 : Byte).toNat < 16 ∧ 16 ≤ (16 : Byte).toNat ∧
      ready.cal.today = none ∧ ready.cal.overrides.length < 16) ∧
    (let s := ready.onCal fun c => { c with overrides := fullList };
      s.cal.overrides.any (fun o => o.day == 0) = false ∧ 16 ≤ s.cal.overrides.length ∧
        s.cal.overrides.any (fun o => o.day == 115) = true) ∧
    (let s := ready.onCal fun c => { c with today := some 1 }; s.cal.today = some 1 ∧ dayNumber ⟨2000, 1, 1⟩ < 1) ∧
    (2099 : Word).toNat < (2100 : Word).toNat ∧ Date.valid ⟨2027, 2, 29⟩ = false ∧
    (ready.onTime fun r => { r with quality := .unset }).time.quality = .unset ∧
    (let s := ready.onGroup 7 fun r => { r with working := true, date := some 0, program := some 0 };
      (s.groupWork 7).working = true ∧ (s.groupWork 7).date = some 0 ∧ (s.groupWork 7).program ≠ none) := by
  unfold State.takes; decide

/-- A ring for group 0 at 08:00:00. -/
def ring : Entry :=
  { time := 28800, action := .ring, pattern := 0, message := 0, player := 0, duration := 40, target := 0, deferLimit := 0
    resumable := true }

/-- Group 0 WORKING on program 0, which holds the ring, for building 0; zone 0 is in target group 0 and building 0. -/
def ringing (mark : Int) : State :=
  ((((ready.onBell fun r => { r with programs := r.programs.put 0 [ring] }).onGroup 0 fun r =>
      { r with working := true, date := some 0, program := some 0, watermark := mark }).onCal fun c =>
        { c with groups := c.groups.put 0 { c.groups.at 0 with scope := 1, grace := 60, resume := true } }).onRouter fun r =>
    { r with groups := Tab.all 128 1, maps := (Tab.all 6 0).put 0 1 })

/-- A second boundary without a date change; and entries due within grace and beyond it. -/
theorem test_BellsTakeWhatTheWatermarkPasses_met :
    (let s := atSecond 28799;
      s.up = true ∧ s.time.boundaryDue = true ∧ s.time.quality ≠ .unset ∧ (28800 + 0) / 86400 = (28799 + 0) / 86400 ∧
        s.time.dst.seconds s.time.dstInForce = 0 ∧ s.time.dst.isInstant 28800 = false) ∧
    (ready.groupWork 0).working = false ∧
    (let s := ready.onGroup 0 fun r => { r with working := true };
      (s.groupWork 0).working = true ∧ (s.groupWork 0).program = none) ∧
    (let s := ringing 28799;
      (s.groupWork 0).working = true ∧ (s.groupWork 0).program = some 0 ∧ s.bell.programs.at 0 = [ring] ∧
        (s.groupWork 0).watermark < ring.time ∧ 28860 - ring.time ≤ (s.cal.groups.at 0).grace ∧
        ¬ 28861 - ring.time ≤ (s.cal.groups.at 0).grace) := by decide

/-- Firing zones, suppressed zones and the buildings of them, as the statement has them; a table with room and a full
one; and a place that waits for its building. -/
theorem test_EntriesFireAndResume_met :
    (let s := ringing 28799;
      (∀ z : ZoneId, Mask.has (1 : ZoneSet) z.val = true ↔ Mask.has (s.router.groups.at ring.target) z.val = true ∧
        (∃ b : BuildingId, Mask.has (s.cal.groups.at 0).scope b.val = true ∧ Mask.has (s.router.maps.at b) z.val = true) ∧
        ∀ b, (none : Option BuildingId) = some b → Mask.has (s.router.maps.at b) z.val = true) ∧
      (∀ z : ZoneId, Mask.has (0 : ZoneSet) z.val = true ↔ Mask.has (1 : ZoneSet) z.val = true ∧
        (s.power.power ≠ .normal ∨ ∃ b : BuildingId, s.bell.viewQuiet.at b = false ∧
          Mask.has (s.router.maps.at b) z.val = true))) ∧
    (let s := (ringing 28799).onPower fun p => { p with power := .reserve };
      (∀ z : ZoneId, Mask.has (1 : ZoneSet) z.val = true → s.power.power ≠ .normal) ∧
      ∀ b : BuildingId, Mask.has (1 : BuildingSet) b.val = true ↔
        ∃ z : ZoneId, Mask.has (1 : ZoneSet) z.val = true ∧ Mask.has (s.router.maps.at b) z.val = true) ∧
    ready.router.groups.at 127 = 0 ∧
    (let s := (ringing 28799).onBell fun r => { r with resume := r.resume.put 0 ((r.resume.at 0).put 0 (some ⟨0, 0⟩)) };
      s.power.power = .normal ∧ (s.groupWork 0).working = true ∧ (s.cal.groups.at 0).resume = true ∧
        (s.bell.resume.at 0).at 0 = some ⟨0, 0⟩ ∧ (s.bell.programs.at 0)[0]? = some ring) ∧
    (ready.bell.resume.at 7).at 5 = none := by decide +kernel

theorem test_DateChangesAndProgramSwitches_met :
    (let s := atSecond 86399;
      s.up = true ∧ s.time.boundaryDue = true ∧ s.time.quality ≠ .unset ∧
        (86400 + s.time.dst.seconds s.time.dstInForce) / 86400 ≠ (86399 + s.time.dst.seconds s.time.dstInForce) / 86400 ∧
        s.time.dst.inForceAt 86400 = s.time.dstInForce) ∧
    (let s := (atSecond (dayNumber ⟨2027, 3, 28⟩ * 86400 + 3599)).onTime fun r => { r with dst := springRule };
      s.up = true ∧ s.time.boundaryDue = true ∧ s.time.quality ≠ .unset ∧
        s.time.dst.inForceAt (s.time.stdSec + 1) ≠ s.time.dstInForce ∧ s.time.dst.isInstant (s.time.stdSec + 1) = true) ∧
    (let m : TimeMove := ⟨some ⟨5, 100, 7⟩, ⟨5, 40, 0⟩, .hostStep, .unchanged⟩;
      ready.up = true ∧ ready.time.quality ≠ .unset ∧ m.old = some ⟨5, 100, 7⟩ ∧ 5 = m.new.day) ∧
    (let m : TimeMove := ⟨some ⟨5, 86399, 7⟩, ⟨6, 0, 0⟩, .telegramStep, .unchanged⟩; m.old = some ⟨5, 86399, 7⟩ ∧ 5 ≠ m.new.day) ∧
    (⟨none, ⟨0, 0, 0⟩, .firstSet, .unchanged⟩ : TimeMove).old = none ∧ State.reset.up = false ∧
    (let s := ringing 86398;
      (s.groupWork 0).working = true ∧ (s.groupWork 0).date = some 0 ∧ (s.groupWork 0).program ≠ none) ∧
    (ready.groupWork 7).working = false := by decide +kernel

theorem test_HostOverridesPlacedReleasedAndExpired_met :
    (ready.takes 0 ∧ ready.modesRight ∧ targetOf (0 : Byte).toNat (127 : Byte).toNat 0 = some (.group 127) ∧
      modeOf (3 : Byte).toNat = some .full ∧ targetOf (2 : Byte).toNat 0 0 = none ∧ 4 < (5 : Byte).toNat) ∧
    (let s := ready.onZone 0 fun r => { r with override := some ⟨.off, none⟩, effective := .off };
      s.takes 0 ∧ s.modesRight ∧ targetOf (1 : Byte).toNat 0 1 = some (.mask 1)) ∧
    (let s := (readyAt 480).onZone 63 fun r => { r with override := some ⟨.off, some 480⟩, effective := .off };
      s.up = true ∧ s.modesRight ∧ (s.zone 63).override = some ⟨.off, some 480⟩ ∧ 480 ≤ s.time.elapsed) ∧
    State.reset.up = false := by
  unfold State.takes State.modesRight; decide

/-- A request for a bell in zone 0. -/
def bellAsk : SessionAsk :=
  { cls := .bell, origin := .request 0 7, source := .tone 0, zones := 1, suppressed := 0, duration := some 40, deferLimit := 8 }

/-- A part whose table is full. -/
def fullTable : State := ready.onRouter fun r => { r with sessions := Tab.all 16 (some (talker .bell (.tone 0))) }

theorem test_NewSessionTakesTheLowestFreeRecord_met :
    (let s := withTalker (talker .page (.console 0)) ready;
      s.refusesSession bellAsk = false ∧ s.sess 1 = none ∧ (∀ m, m < 1 → s.sess m ≠ none) ∧ s.zonesAgree) ∧
    (fullTable.refusesSession bellAsk = true ∧ ∀ n, fullTable.sess n ≠ none) :=
  ⟨⟨by decide, by decide, by decide, talker_zonesAgree⟩, by decide⟩

/-- R54: a page into building 0 asks for its monitor zone too. -/
theorem test_page_adds_the_monitor_zone :
    let s := ready.onRouter fun r => { r with maps := (Tab.all 6 0).put 0 1, monitor := r.monitor.put 0 (some 63) };
    let t := (s.createSession { bellAsk with cls := .page, source := .console 0 }).1;
    (t.sess 0).map (fun x => (Mask.has x.requested 63, Mask.has x.connected 63)) = some (true, true) := by decide +kernel

/-- R71: of several reasons the first that applies: a bell in a building that is not QUIET, in a zone OFF, and at fault. -/
theorem test_refused_for_the_first_reason :
    let s := (((ready.onRouter fun r => { r with view := r.view.put 5 .alerted }).onZone 0 fun r =>
      { r with building := 5, fault := true }).onZone 1 fun r => { r with effective := .off, fault := true }).onZone 2 fun r =>
        { r with fault := true };
    let t := (s.createSession { bellAsk with zones := 15 }).1;
    (t.sess 0).map (fun x => (x.refSuppressed, x.refNotAdmitted, x.refFaulted, x.connected)) = some (1, 2, 4, 8) := by
  decide +kernel

/-- Sessions 0 and 1, of which 0 has zone 0. -/
def twoTalkers (n o : Session) : State := (withTalker o ready).setSess 1 (some n)

theorem test_ZoneJudgedByPriority_met :
    (twoTalkers (talker .bell (.tone 0)) (talker .page (.console 0))).sess 1 = some (talker .bell (.tone 0)) ∧
    (ready.zone 0).occupant = none ∧
    (let s := twoTalkers { talker .bell (.tone 0) with deferLimit := 240 } (talker .message (.player 0 1 1));
      (s.zone 0).occupant = some 0 ∧ (0 : SessId) ≠ 1 ∧ Cls.bell.num < Cls.message.num) ∧
    (let s := twoTalkers (talker .bell (.tone 0)) (talker .page (.console 0));
      (s.zone 0).held = none ∧ Cls.bell.num < Cls.page.num ∧ (talker .bell (.tone 0)).deferLimit = 0) ∧
    (Cls.evacuate.num < Cls.alert.num ∧ Cls.alert ≠ .page ∧ Cls.alert ≠ .message) ∧ Cls.bell.num ≤ Cls.bell.num := by
  decide

/-- A deferred zone at fault, free and with an occupant; without a fault the clauses above hold. -/
theorem test_ZoneJudgedByPriority_fault :
    (let s := ready.onZone 0 fun r => { r with fault := true };
      (s.zone 0).fault = true ∧ (s.zone 0).occupant = none) ∧
    (let s := (twoTalkers (talker .bell (.tone 0)) (talker .page (.console 0))).onZone 0 fun r => { r with fault := true };
      s.sess 1 = some (talker .bell (.tone 0)) ∧ (s.zone 0).fault = true ∧ (s.zone 0).occupant = some 0) ∧
    (ready.zone 0).fault = false ∧
    ((twoTalkers (talker .bell (.tone 0)) (talker .page (.console 0))).zone 0).fault = false := by decide

/-- A BELL takes the zone where a session is held already: of two of one class the older stays held, be it the occupant or
the other; and of two classes the higher. -/
theorem test_ZoneJudgedByPriority_held :
    let held (y w : Session) : State :=
      ((twoTalkers (talker .bell (.tone 0)) y).setSess 2 (some w)).onZone 0 fun r => { r with held := some 2 };
    let page (k : Nat) : Session := { talker .page (.console 0) with seq := k };
    (∀ y ∈ [page 0, page 1, talker .message (.console 0)],
      let s := held y (page 1);
      s.sess 1 = some (talker .bell (.tone 0)) ∧ (s.zone 0).occupant = some 0 ∧ s.sess 0 = some y ∧
        (s.zone 0).held = some 2 ∧ s.sess 2 = some (page 1) ∧ Cls.bell.num < y.cls.num) ∧
    (page 0).seq < (page 1).seq ∧ ¬ (page 1).seq < (page 1).seq ∧ Cls.page.num < Cls.message.num := by decide

theorem test_SessionsEndAndDeferAtTheirInstants_met :
    (let s := withTalker (talker .bell (.tone 0)) (readyAt 40);
      s.up = true ∧ s.sess 0 = some (talker .bell (.tone 0)) ∧ (talker .bell (.tone 0)).activeAt = some 0 ∧
        (talker .bell (.tone 0)).duration = some 40 ∧ 0 + 40 ≤ s.time.elapsed) ∧
    (let x : Session := { talker .message (.player 0 1 1) with state := .paused, pausedAt := some 0 };
      let s := withTalker x (readyAt 960);
      s.up = true ∧ s.sess 0 = some x ∧ x.state = .paused ∧ 0 + 960 ≤ s.time.elapsed) ∧
    (let x : Session := { talker .bell (.tone 0) with state := .queued, activeAt := none, deferLimit := 8 };
      let s := (withTalker x (readyAt 8)).onTone fun t => { t with waitList := [0] };
      s.up = true ∧ s.sess 0 = some x ∧ (0 : SessId) ∈ s.tone.waitList ∧ x.createdAt + x.deferLimit ≤ s.time.elapsed) ∧
    (let s := (readyAt 16).onPlayer 0 fun r => { r with current := some 0, strobeAt := some 0 };
      s.up = true ∧ (s.player 0).current = some 0 ∧ (s.player 0).strobeAt = some 0 ∧ 0 + 16 ≤ s.time.elapsed ∧
        Mask.has s.pins.playing 0 = false) := by decide

theorem test_SessionsEndAndDeferAtTheirInstants_defer :
    (let x : Session := { talker .bell (.tone 0) with deferred := 1, connected := 0, deferLimit := 8 };
      let s := (readyAt 8).setSess 0 (some x);
      s.up = true ∧ s.sess 0 = some x ∧ x.cls = .bell ∧ x.deferred ≠ 0 ∧ x.createdAt + x.deferLimit ≤ s.time.elapsed) ∧
    (talker .bell (.tone 0)).deferred = 0 := by decide

/-- Session 1 waits for zone 0 and session 2 is in the way of nothing; session 0 is held there, or not. -/
def waitingFor (held : Option SessId) : State :=
  ((ready.setSess 0 (some { talker .page (.console 0) with connected := 0, held := 1 })).setSess 1
    (some { talker .message (.player 0 1 1) with connected := 0, waiting := 1, seq := 1 })).onZone 0 fun r => { r with held := held }

/-- A faulted zone; a held session; and a session that waits, admitted and barred. -/
theorem test_ZonesAreReleasedAndRejudged_met :
    (ready.onZone 0 fun r => { r with fault := true }).zone 0 ≠ ready.zone 0 ∧
    ((ready.onZone 0 fun r => { r with fault := true }).zone 0).fault = true ∧
    (let s := waitingFor (some 0); (s.zone 0).fault = false ∧ (s.zone 0).held = some 0 ∧
      s.sess 0 = some { talker .page (.console 0) with connected := 0, held := 1 }) ∧
    (let s := waitingFor none;
      (s.zone 0).fault = false ∧ (s.zone 0).held = none ∧ (s.zone 0).effective = .full ∧
        s.router.view.at (s.zone 0).building = .quiet ∧
        (∃ x, s.sess 1 = some x ∧ Mask.has x.waiting 0 = true) ∧
        ∀ m, m ≠ 1 → ∀ x ∈ (s.sess m).toList, Mask.has x.waiting 0 = false ∧ Mask.has x.deferred 0 = false) ∧
    ((waitingFor none).onZone 0 fun r => { r with effective := .off }).zone 0 ≠ ready.zone 0 := by
  refine ⟨by decide, by decide, by decide, ⟨by decide, by decide, by decide, by decide, ⟨_, rfl, by decide⟩, by decide⟩, by decide⟩

/-- A MESSAGE that is ACTIVE with its zone held elsewhere, one that is PAUSED with its zone, and one with no zone at all,
touched. -/
theorem test_TouchedSessionsAreSettled_met :
    (let x : Session := { talker .message (.player 1 1 1) with connected := 0, held := 1 };
      (ready.setSess 0 (some x)).sess 0 = some x ∧ x.cls = .message ∧ x.source = .player 1 1 1 ∧ x.state = .active ∧
        x.connected = 0 ∧ x.held ≠ 0) ∧
    (let x : Session := { talker .message (.player 1 1 1) with state := .paused };
      x.state = .paused ∧ ¬ (x.connected = 0 ∧ x.held ≠ 0)) ∧
    (let x : Session := { talker .bell (.tone 0) with connected := 0, lost := 1 };
      let s := (ready.setSess 15 (some x)).onWork fun w => { w with touched := [15] };
      s.work.touched = [] ++ 15 :: [] ∧ s.sess 15 = some x ∧
        x.connected = 0 ∧ x.waiting = 0 ∧ x.deferred = 0 ∧ x.held = 0) ∧ ready.work.touched = [] := by decide

/-- A session on zone 0 that a generator does not have; one that has a player, cut, with a queue and without; and one of a
building that stands down, of one that does not, and of one whose signal it is not. -/
theorem test_SessionsEndInOrder_met :
    (let s := withTalker (talker .page (.console 0)) ready;
      s.zonesAgree ∧ s.soundsRight ∧ s.sess 0 = some (talker .page (.console 0))) ∧
    (let x := talker .message (.player 0 1 1);
      let s := ((withTalker x ready).setSess 1 (some { x with source := .player 0 9 1 })).onPlayer 0 fun r =>
        { r with current := some 0, queue := [1, 2] };
      s.sess 0 = some x ∧ x.source = .player 0 1 1 ∧ (s.player 0).current = some 0 ∧ s.work.cutPlayer ≠ some 0 ∧
        (s.player 0).queue = 1 :: [2] ∧ (0 : SessId) ∉ ([1, 2] : List SessId) ∧
        s.sess 1 = some { x with source := .player 0 9 1 } ∧
        (s.onWork fun w => { w with cutPlayer := some 0 }).work.cutPlayer = some 0 ∧ (ready.player 0).queue = []) ∧
    (let x : Session := { talker .drill (.tone 4) with origin := .building 0 .allClear };
      let s (st : BState) : State := (withTalker x ready).onBuilding 0 fun r => { r with state := st, signal := some 0 };
      (s .standingDown).sess 0 = some x ∧ ((s .standingDown).building 0).state = .standingDown ∧
        ((s .alarm).building 0).state ≠ .standingDown ∧ ((s .alarm).building 0).signal = some 0 ∧
        (ready.building 0).signal ≠ some 0) :=
  ⟨⟨talker_zonesAgree, soundsRight_of_none (by decide) (by decide) (by decide), by decide⟩, by decide, by decide⟩

/-- A PLAYING level high one eighth after the strobe and at it, a repetition that ends, with one left and none. -/
theorem test_PlayersAreQueuedCuedAndRepeated_met :
    (let s := ((readyAt 15).onPlayer 0 fun r => { r with current := some 0, strobeAt := some 14 }).setPins
        { pinsAtRest with playing := 1 };
      s.up = true ∧ (s.player 0).current = some 0 ∧ (s.player 0).strobeAt = some 14 ∧ (s.player 0).pauseAtLast = false ∧
        Mask.has s.pins.playing 0 = true ∧ 14 < s.time.elapsed ∧ (readyAt 14).time.elapsed ≤ 14) ∧
    (let s := ready.onPlayer 0 fun r => { r with current := some 0, started := true, repsLeft := 1 };
      (s.player 0).started = true ∧ Mask.has s.pins.playing 0 = false ∧ 0 < (s.player 0).repsLeft) ∧
    (ready.player 0).repsLeft = 0 ∧
    (let s := ready.onPlayer 0 fun r => { r with current := some 0, pauseAtLast := true };
      s.up = true ∧ (s.player 0).current = some 0 ∧ (s.player 0).pauseAtLast = true) := by decide

/-- A player without a session; one whose session is of equal class, with a full queue, and of lower class; and one that is
left with a queue and without. -/
theorem test_PlayersAreQueuedCuedAndRepeated_asked :
    (let x := talker .message (.player 0 1 1);
      let s := (ready.setSess 1 (some x)).onPlayer 0 fun r => { r with current := some 0, queue := [2, 3, 4, 5, 6, 7, 8, 9] };
      (ready.player 0).current = none ∧ s.sess 1 = some x ∧ x.source = .player 0 1 1 ∧ (s.player 0).current = some 0 ∧
        8 ≤ (s.player 0).queue.length ∧ Cls.message.num ≤ x.cls.num ∧ Cls.bell.num < x.cls.num ∧
        s.work.cutPlayer ≠ some 0 ∧ (s.player 0).queue = 2 :: [3, 4, 5, 6, 7, 8, 9]) ∧ (ready.player 1).queue = [] := by
  decide

/-- The crosspoint of one zone on bus 7, and none elsewhere. -/
def oneBus : Tab (Option (Fin 8)) 64 := (Tab.all 64 none).put 0 (some 7)

theorem test_CrosspointFramesLatchTheBoundarysSelections_met :
    (let s := (withTalker (talker .page (.console 1)) ready).onRouter fun r => { r with frame := some oneBus };
      s.up = true ∧ s.router.frame = some oneBus) ∧ ready.router.frame = none ∧
    (let s := withTalker (talker .page (.console 1)) ready;
      (∀ z, z ≠ 0 → (s.zone z).occupant = none ∧ oneBus.at z = none) ∧ (s.zone 0).occupant = some 0 ∧
        s.sess 0 = some (talker .page (.console 1)) ∧ (talker .page (.console 1)).state = .active ∧
        (oneBus.at 0).map Fin.val = some (6 + 1)) ∧ ready.up = true ∧ ∀ z, (ready.whole.zone z).occupant = none := by decide

theorem test_ConsoleKeysAndConsoleSet_keys :
    (let s := ready.onConsole 0 fun r => { r with emerCount := 2, pttCount := 2, target := some 0 };
      s.up = true ∧ 2 ≤ (s.console 0).emerCount ∧ 2 ≤ (s.console 0).pttCount ∧ (s.console 0).ptt = false ∧
        (s.console 0).target = some 0 ∧ s.sess 0 = none ∧ ∀ m, m < 0 → s.sess m ≠ none) ∧
    (ready.console 0).target = none ∧
    (let s := ready.onConsole 1 fun r => { r with pttCount := 2, ptt := true, session := some 0 };
      2 ≤ (s.console 1).pttCount ∧ (s.console 1).ptt = true ∧ (s.console 1).session = some 0) := by decide

/-- R84: the lamp of a console whose page waits for a zone and has none is lit, that of one that is heard is not. -/
theorem test_busy_lamp :
    let s (x : Session) : State := (withTalker x ready).onConsole 0 fun r => { r with session := some 0 };
    (s { talker .page (.console 0) with connected := 0, waiting := 1 }).busyLamp 0 = true ∧
      (s (talker .page (.console 0))).busyLamp 0 = false := by decide

theorem test_ConsoleKeysAndConsoleSet_set :
    ready.takes 0 ∧ ¬ ((2 : Byte).toNat ≤ 1) ∧ ((1 : ConsoleId).val = (1 : Byte).toNat ∧ (127 : Byte).toNat ≤ 127 ∧
      (255 : Byte).toNat = 255 ∧ (4 : Byte).toNat = 4) := by unfold State.takes; decide

/-- What is asked for where EVACUATE is taken as ALERT and the duration and defer limit are clamped. -/
def alertAsk : SessionAsk :=
  { cls := .alert, origin := .request 0 7, source := .tone 7, zones := State.resolve ready (.group 127), suppressed := 0
    duration := some 2400, deferLimit := 240 }

theorem test_AnnounceMakesASession_met :
    ready.takes 0 ∧ (2 : Byte).toNat = 2 ∧ ¬ ((6 : Byte).toNat ≤ 5) ∧ ¬ ((8 : Byte).toNat ≤ 7) ∧ ¬ ((2 : Byte).toNat ≤ 1) ∧
      targetOf 0 128 0 = none ∧ targetOf 0 127 0 = some (.group 127) ∧ (0 : Byte).toNat ≤ 5 ∧ Cls.alert.num = 1 ∧
      Cls.message.num = (5 : Byte).toNat ∧ (7 : PatternId).val = (7 : Byte).toNat ∧ (1 : PlayerId).val = (1 : Byte).toNat ∧
      max 1 (min (2401 : Word).toNat 2400) = 2400 ∧ max 1 (min (0 : Byte).toNat 4) = 1 ∧ 240 < (241 : Word).toNat ∧
      State.reset.power.power ≠ .normal ∧ ready.power.power = .normal ∧
      ready.refusesSession alertAsk = false ∧ fullTable.refusesSession alertAsk = true ∧ ready.sess 0 = none := by
  unfold State.takes; decide

theorem test_CancelEndsSessions_met :
    15 < (16 : Byte).toNat ∧ ready.takes 0 ∧ ready.sess 15 = none ∧ (15 : SessId).val = (15 : Byte).toNat ∧
    (let x : Session := { talker .evacuate (.tone 0) with origin := .building 0 .evacuation };
      (withTalker x ready).sess 0 = some x) ∧
    (withTalker (talker .bell (.tone 0)) ready).sess 0 = some (talker .bell (.tone 0)) ∧
    (talker .bell (.tone 0)).origin = .request 0 7 ∧ ready.noneDown ∧ (∀ b, (ready.building b).wanted = false) ∧
    ready.work.touched = [] ∧ (talker .bell (.tone 0)).waiting = 0 := by unfold State.takes State.noneDown; decide

/-- A generator at a step and phase of a pattern of two steps, the second silent. -/
def playing (st : Nat) (onPhase : Bool) : Generator :=
  { Generator.idle with users := [0], copy := [⟨552, none, 4, 4⟩, ⟨655, none, 0, 16⟩], begun := true, step := st, onPhase := onPhase }

theorem test_PatternPhases_met :
    (let s := ready.onGen 3 fun _ => playing 0 true;
      s.up = true ∧ (s.gen 3).users ≠ [] ∧ (s.gen 3).begun = true ∧ (s.gen 3).left = 0 ∧ (s.gen 3).copy ≠ [] ∧
        (s.gen 3).copy[(s.gen 3).step]? = some ⟨552, none, 4, 4⟩ ∧
        (s.gen 3).copy[((s.gen 3).step + 1) % (s.gen 3).copy.length]? = some ⟨655, none, 0, 16⟩) ∧
    (playing 1 false).onPhase = false ∧ (ready.gen 3).users = [] := by decide

/-- Steps 1 and 2 of the three have no length, so that step 0 follows itself; and a copy without any. -/
theorem test_PatternPhases_passes_over :
    (let r : Generator := { playing 0 false with copy := [⟨552, none, 4, 4⟩, ⟨655, none, 0, 0⟩, ⟨131, none, 0, 0⟩] };
      r.step < r.copy.length ∧ r.nextPhase = { r with step := 0, onPhase := true, left := 4, divider := some 552 }) ∧
    (let r : Generator := { playing 0 true with copy := [⟨552, none, 0, 0⟩] };
      r.nextPhase = { r with divider := none, left := 0 }) := by decide

/-- A generator that plays for a class. -/
def busy (cls : Cls) : Generator := { Generator.idle with users := [9], cls := some cls, pattern := some 0 }

/-- A part whose generators all play for a class. -/
def allBusy (cls : Cls) : State := ready.onTone fun t => { t with gens := Tab.all 4 (busy cls) }

/-- A generator shared, free ones, all taken by a class below or not, and one left by its only user. -/
theorem test_GeneratorsAreSharedCutOrWaitedFor_met :
    (let x := talker .alert (.tone 0);
      (ready.setSess 0 (some x)).sess 0 = some x ∧ x.source = .tone 0 ∧ ((allBusy .alert).gen 0).users ≠ [] ∧
        ((allBusy .alert).gen 0).cls = some x.cls ∧ ((allBusy .alert).gen 0).pattern = some 0) ∧
    (∀ g, (ready.gen g).users = []) ∧ (∀ g, ((allBusy .bell).gen g).users ≠ [] ∧ ((allBusy .bell).gen g).cls = some .bell) ∧
    Cls.alert.num < Cls.bell.num ∧ (talker .bell (.tone 0)).deferLimit = 0 ∧ bellAsk.deferLimit ≠ 0 ∧
    (let s := (allBusy .bell).onTone fun t => { t with waitList := [3] };
      (∀ m, m ∈ (s.gen 3).users → m = 9) ∧ s.work.cutGen ≠ some 3 ∧ s.tone.waitList = 3 :: []) ∧
    (∃ m, m ∈ ((allBusy .bell).gen 0).users ∧ m ≠ 0) ∧ ready.tone.waitList = [] := by decide

theorem test_AlarmClosure_met :
    (let s := (drilling .mustered none).onBuilding 0 fun r => { r with contactCount := 16 };
      s.up = true ∧ 16 ≤ (s.building 0).contactCount ∧ (s.building 0).contact = false ∧ (s.building 0).state ≠ .alarm ∧
        ∀ c, c ≠ 0 → (s.building c).state ≠ .standingDown) ∧
    (let s := ready.onBuilding 5 fun r => { r with contactCount := 16, state := .alarm };
      (s.building 5).contact = false ∧ (s.building 5).state = .alarm) ∧
    ready.openRecordOf 0 = none ∧ ¬ 16 ≤ (ready.building 0).contactCount := by decide

/-- An open record of building 0. -/
def openRecord (isAlarm : Bool) : LogRec :=
  { serial := 0, isAlarm := isAlarm, building := 0, profile := none, quality := .free, start := ⟨0, 0⟩, preStart := ⟨0, 0⟩
    evacStart := none, muster := none, evacTime := none, endTime := none, outcome := .stillOpen }

/-- A part with an open record of building 0. -/
def recorded (isAlarm : Bool) (st : BState) : State :=
  (drilling st none).onDrill fun d => { d with log := [openRecord isAlarm], serial := 1 }

theorem test_open_records_met :
    (recorded true .alarmHushed).openRecordOf 0 = some (openRecord true) ∧
    (recorded false .evacuating).openRecordOf 0 = some (openRecord false) ∧ (openRecord true).muster = none := by decide

theorem test_MusterAndContactInputs_met :
    (let s := ready.onBuilding 0 fun r => { r with contact := true, contactCount := 16, muster := true, musterCount := 2 };
      s.up = true ∧ 16 ≤ (s.building 0).contactCount ∧ (s.building 0).contact = true ∧ 2 ≤ (s.building 0).musterCount ∧
        (s.building 0).muster = true) ∧
    (let s := (recorded false .evacuating).onBuilding 0 fun r => { r with musterCount := 2 };
      s.up = true ∧ 2 ≤ (s.building 0).musterCount ∧ (s.building 0).muster = false ∧ (s.building 0).state = .evacuating ∧
        (s.building 0).profile = some 0 ∧ s.drill.profiles.at 0 = some profile0) ∧
    (let s := (recorded true .alarm).onBuilding 0 fun r => { r with musterCount := 2 };
      (s.building 0).muster = false ∧ (s.building 0).state = .alarm) ∧
    (let s := ready.onBuilding 0 fun r => { r with musterCount := 2 };
      (s.building 0).muster = false ∧ (s.building 0).state = .quiet) ∧
    ((ready.building 0).contactCount < 16 ∧ (ready.building 0).musterCount < 2) := by decide

theorem test_noneDown_met : ready.noneDown ∧ (recorded false .evacuating).noneDown := by
  unfold State.noneDown; decide

theorem test_requests_on_buildings_met :
    ready.takes 0 ∧ 63 < (64 : Byte).toNat ∧ (63 : Byte).toNat ≤ 63 ∧ (63 : Byte) ≠ 0 ∧
    (∀ b : BuildingId, (Mask.has (63 : Byte) b.val && (ready.building b).state == .alarm) = false) := by
  unfold State.takes; decide

theorem test_HushSilences_met :
    let s := recorded true .alarm;
    s.takes 0 ∧ ∃ b : BuildingId, (Mask.has (1 : Byte) b.val && (s.building b).state == .alarm) = true := by
  unfold State.takes; decide

/-- A building that goes to STANDING_DOWN where its one zone, zone 0, admits the all-clear. -/
def clearable (st : BState) (tm : Option (TimerKind × Nat)) : State :=
  (drilling st tm).onRouter fun r => { r with maps := (Tab.all 6 0).put 0 1 }

theorem clearable_clearSounds (st : BState) (tm : Option (TimerKind × Nat)) (h : st ≠ .standingDown) :
    (clearable st tm).clearSounds 0 := by
  have hs : ∀ n, (clearable st tm).sess n = none := (by decide : ∀ n, ready.sess n = none)
  have hb : ∀ b, ((clearable st tm).building b).signal = none ∧ ((clearable st tm).building b).wanted = false ∧
      ((clearable st tm).building b).state = if b = 0 then st else .quiet := by
    intro b
    match b with
    | 0 | 1 | 2 | 3 | 4 | 5 => exact ⟨rfl, rfl, rfl⟩
  refine ⟨zonesAgree_of_none hs (by decide : ∀ z, (ready.zone z).occupant = none ∧ (ready.zone z).held = none),
    soundsRight_of_none (by decide : ∀ g, (ready.gen g).users = []) rfl (fun b => (hb b).1), fun b => ?_, fun b => (hb b).2.1,
    rfl, 0, (by decide : Mask.has (((Tab.all 6 0).put 0 1).at (0 : BuildingId) : ZoneSet) 0 = true),
    (by decide : (ready.zone 0).effective ≠ .off), (by decide : (ready.zone 0).fault = false),
    fun n x e => by rw [hs n] at e; cases e⟩
  rw [(hb b).2.2]
  split
  · exact h
  · decide

/-- `clearable`, but that the one zone is OFF: no zone admits the all-clear. -/
def silent (st : BState) (tm : Option (TimerKind × Nat)) : State :=
  (clearable st tm).onZone 0 fun r => { r with effective := .off }

theorem silent_clearSilent (st : BState) (tm : Option (TimerKind × Nat)) (h : st ≠ .standingDown) :
    (silent st tm).clearSilent 0 := by
  have hs : ∀ n, (silent st tm).sess n = none := (by decide : ∀ n, ready.sess n = none)
  have hz : ∀ z, ((silent st tm).zone z).occupant = none ∧ ((silent st tm).zone z).held = none :=
    (by decide : ∀ z, ((ready.onZone 0 fun r => { r with effective := .off }).zone z).occupant = none ∧
      ((ready.onZone 0 fun r => { r with effective := .off }).zone z).held = none)
  have hb : ∀ b, ((silent st tm).building b).signal = none ∧ ((silent st tm).building b).wanted = false ∧
      ((silent st tm).building b).state = if b = 0 then st else .quiet := by
    intro b
    match b with
    | 0 | 1 | 2 | 3 | 4 | 5 => exact ⟨rfl, rfl, rfl⟩
  refine ⟨zonesAgree_of_none hs hz, soundsRight_of_none (by decide : ∀ g, (ready.gen g).users = []) rfl (fun b => (hb b).1),
    fun b => ?_, fun b => (hb b).2.1, rfl, rfl, .inr ⟨0, hs 0⟩, fun z m => .inl ?_⟩
  · rw [(hb b).2.2]
    split
    · exact h
    · decide
  · exact (by decide : ∀ z : ZoneId, Mask.has (((Tab.all 6 0).put 0 1).at (0 : BuildingId) : ZoneSet) z.val = true →
      ((ready.onZone 0 fun r => { r with effective := .off }).zone z).effective = .off) z m

theorem test_AllClearStandsDown_silent :
    (silent .mustered none).clearSilent 0 ∧ (silent .mustered none).takes 0 ∧
    ((silent .mustered none).building 0).state = .mustered :=
  ⟨silent_clearSilent _ _ (by decide), by unfold State.takes; decide⟩

theorem test_DrillAborts_silent :
    (silent .evacuating none).clearSilent 0 ∧ (silent .evacuating none).takes 0 ∧
    ((silent .evacuating none).building 0).state = .evacuating :=
  ⟨silent_clearSilent _ _ (by decide), by unfold State.takes; decide⟩

theorem test_DrillTimers_silent :
    (silent .mustered (some (.auto, 0))).clearSilent 0 ∧ (silent .mustered (some (.auto, 0))).up = true ∧
    ((silent .mustered (some (.auto, 0))).building 0).timer = some (.auto, 0) :=
  ⟨silent_clearSilent _ _ (by decide), by decide⟩

/-- Where an all-clear finds a zone and a record is free, a signal of class DRILL or above finds both. -/
theorem signalFinds_of_clearSounds {s : State} {b : BuildingId} (h : s.clearSounds b) {n : SessId} (hn : s.sess n = none)
    {c : Cls} (hc : c.num ≤ 2) : s.signalFinds b c := by
  obtain ⟨hz, hs, hd, hw, ht, z, hm, he, hf, hx⟩ := h
  exact ⟨hz, hs, fun _ => ⟨hd, hw⟩, ht, .inr ⟨n, hn⟩, z, hm, he, hf, fun m x e k l => hx m x e k (Nat.le_trans l hc)⟩

/-- Building 1's contact has shown closed 16 times; its spread set is building 0, which is QUIET; each has one zone, 1 and 0;
and a page is FILLING. -/
def closing : State :=
  ((((drilling .quiet none).onBuilding 1 fun r => { r with contactCount := 16 }).onRouter fun r =>
    { r with maps := ((Tab.all 6 0).put 0 1).put 1 2, spread := (Tab.all 6 0).put 1 1 }).onRh fun r =>
    { r with writerOn := true, current := some ⟨0, 0, 0, 0, none⟩ })

theorem closing_clearSounds (b : BuildingId) (h : b = 0 ∨ b = 1) : closing.clearSounds b := by
  have hs : ∀ n, closing.sess n = none := (by decide : ∀ n, ready.sess n = none)
  have hb : ∀ b, (closing.building b).signal = none ∧ (closing.building b).wanted = false ∧
      (closing.building b).state = .quiet := by
    intro b
    match b with
    | 0 | 1 | 2 | 3 | 4 | 5 => exact ⟨rfl, rfl, rfl⟩
  have hz : ∀ z, (closing.zone z).occupant = none ∧ (closing.zone z).held = none :=
    (by decide : ∀ z, (ready.zone z).occupant = none ∧ (ready.zone z).held = none)
  have hr := soundsRight_of_none (s := closing) (by decide : ∀ g, (ready.gen g).users = []) rfl (fun b => (hb b).1)
  refine ⟨zonesAgree_of_none hs hz, hr, fun b => ?_, fun b => (hb b).2.1, rfl, ⟨b.val, by omega⟩, ?_, ?_, ?_,
    fun n x e => by rw [hs n] at e; cases e⟩
  · rw [(hb b).2.2]; decide
  all_goals rcases h with rfl | rfl
  · exact (by decide : Mask.has ((((Tab.all 6 0).put 0 1).put 1 2).at (0 : BuildingId) : ZoneSet) 0 = true)
  · exact (by decide : Mask.has ((((Tab.all 6 0).put 0 1).put 1 2).at (1 : BuildingId) : ZoneSet) 1 = true)
  · exact (by decide : (ready.zone 0).effective ≠ .off)
  · exact (by decide : (ready.zone 1).effective ≠ .off)
  · exact (by decide : (ready.zone 0).fault = false)
  · exact (by decide : (ready.zone 1).fault = false)

/-- The signals of an alarm and of the building it alerts, and its record, have what they need. -/
theorem test_AlarmClosure_signals :
    closing.signalFinds 1 .evacuate ∧ closing.signalFinds 0 .alert ∧
    closing.up = true ∧ 16 ≤ (closing.building 1).contactCount ∧ (closing.building 1).contact = false ∧
    (closing.building 1).state = .quiet ∧ (closing.building 0).state = .quiet ∧
    Mask.has (closing.router.spread.at 1) 0 = true ∧
    6 ≤ ((List.finRange 16).filter fun n => (closing.sess n).isNone).length ∧
    (∀ d, d ≠ 0 → closing.router.maps.at 0 &&& closing.router.maps.at d = 0) ∧ closing.rh.writerOn = true ∧
    closing.rh.current = some ⟨0, 0, 0, 0, none⟩ ∧ (∀ n, closing.sess n = none) ∧ closing.openRecordOf 1 = none :=
  ⟨signalFinds_of_clearSounds (closing_clearSounds 1 (.inr rfl)) (n := 0) (by decide) (by decide),
    signalFinds_of_clearSounds (closing_clearSounds 0 (.inl rfl)) (n := 0) (by decide) (by decide), by decide⟩

/-- The signals of 7.2 find a record and a zone where the drill statements ask for it. -/
theorem test_drill_signals_met :
    (clearable .quiet none).signalFinds 0 .drill ∧ (clearable .mustered none).signalFinds 0 .drill ∧
    (clearable .evacuating none).signalFinds 0 .drill ∧ (clearable .prealert (some (.prealert, 0))).signalFinds 0 .drill ∧
    (clearable .mustered (some (.auto, 0))).signalFinds 0 .drill ∧
    ((clearable .quiet none).takes 0 ∧ (clearable .quiet none).drill.profiles.at 0 = some profile0) :=
  have h (st : BState) (tm : Option (TimerKind × Nat)) (k : st ≠ .standingDown) : (clearable st tm).signalFinds 0 .drill :=
    signalFinds_of_clearSounds (clearable_clearSounds st tm k) (n := 0) ((by decide : ∀ n, ready.sess n = none) 0) (by decide)
  ⟨h _ _ (by decide), h _ _ (by decide), h _ _ (by decide), h _ _ (by decide), h _ _ (by decide),
    by unfold State.takes; decide⟩

theorem test_AllClearStandsDown_met :
    (clearable .mustered none).clearSounds 0 ∧ (clearable .mustered none).takes 0 ∧
    (recorded true .alarmHushed).takes 0 ∧ ((recorded true .alarmHushed).building 0).contact = false ∧
    ((drilling .mustered none).building 0).state = .mustered ∧ (ready.building 5).state = .quiet ∧
    ((recorded true .alarm).onBuilding 0 fun r => { r with contact := true }).takes 0 :=
  ⟨clearable_clearSounds _ _ (by decide), by unfold State.takes; decide⟩

theorem test_DrillStarts_met :
    ready.takes 0 ∧ 7 < (8 : Byte).toNat ∧ ready.drill.profiles.at 7 = none ∧ (0 : ProfileId).val = (0 : Byte).toNat ∧
    ready.drill.profiles.at 0 = some profile0 ∧ profile0.preAlertSec = 0 ∧
    0 < ({ profile0 with preAlertSec := 600 } : Profile).preAlertSec ∧
    (let s := (drilling .standingDown none);
      (s.building 0).state = .standingDown ∧ (s.building 5).state = .quiet ∧ (0 : BuildingId) < 5) ∧
    (ready.noneDown ∧ ready.drill.log = []) ∧
    (ready.building 5).state = .quiet ∧ ((drilling .mustered none).building 0).state = .mustered := by
  unfold State.takes State.noneDown; decide

theorem test_DrillAborts_met :
    (clearable .evacuating none).clearSounds 0 ∧
    (drilling .prealert (some (.prealert, 8))).takes 0 ∧
    ((drilling .prealert (some (.prealert, 8))).building 0).state = .prealert ∧
    ((drilling .mustered none).building 0).state = .mustered ∧ (ready.building 1).state = .quiet :=
  ⟨clearable_clearSounds _ _ (by decide), by unfold State.takes; decide⟩

theorem test_DrillTimers_met :
    (clearable .mustered (some (.auto, 0))).clearSounds 0 ∧
    (let s := drilling .prealert (some (.prealert, 0));
      s.up = true ∧ (s.building 0).timer = some (.prealert, 0) ∧ 0 ≤ s.time.elapsed ∧ (s.building 0).profile = some 0 ∧
        s.drill.profiles.at 0 = some profile0) ∧
    ((drilling .evacuating (some (.limit, 0))).building 0).timer = some (.limit, 0) ∧
    ((drilling .mustered (some (.auto, 0))).building 0).timer = some (.auto, 0) ∧ (ready.building 0).timer = none :=
  ⟨clearable_clearSounds _ _ (by decide), by decide⟩

theorem test_StoreRequests_met :
    ready.takes 0 ∧ (7679 : Word).toNat % 2 = 1 ∧ 7680 < (7682 : Word).toNat ∧ ¬ 7680 < (7680 : Word).toNat ∧
    ready.power.storeOp = none ∧ (ready.onPower fun p => { p with storeOp := some (.saveNothing 0 7 false) }).power.storeOp ≠ none ∧
    ((8186 : Word).toNat % 2 = 0 ∧ (6 : Word).toNat % 2 = 0 ∧ 6 ≤ (6 : Word).toNat ∧ (8186 : Word).toNat + (6 : Word).toNat ≤ 8192) ∧
    7 < (8 : Byte).toNat ∧ SectKind.drills.num = (7 : Byte).toNat ∧ (∀ k, ready.power.changed.at k = false) ∧
    (∃ k, (ready.onPower fun p => { p with changed := p.changed.put 6 true }).power.changed.at k = true) := by
  unfold State.takes; decide

theorem test_StoreOperationsComplete_met :
    ready.up = true ∧
    (ready.onPower fun p => { p with storeOp := some (.logCopy 23 7 7680 [openRecord false] true) }).power.storeOp =
      some (.logCopy 23 7 7680 [openRecord false] true) ∧
    (ready.onPower fun p => { p with storeOp := some (.saveNothing 0 7 true) }).power.storeOp =
      some (.saveNothing 0 7 true) ∧
    (ready.onPower fun p => { p with storeOp := some (.save 0 7 [(60, [1, 2, 3, 4]), (2, [0])] 1 4 true) }).power.storeOp =
      some (.save 0 7 [(60, [1, 2, 3, 4]), (2, [0])] 1 4 true) ∧
    (ready.onPower fun p => { p with storeOp := some (.save 0 7 [(0, [60, 106])] 1 4 true) }).power.storeOp =
      some (.save 0 7 [(0, [60, 106])] 1 4 true) ∧
    ([9, 2, 3, 4] : List Byte).length = ([1, 2, 3, 4] : List Byte).length ∧ ([9, 2, 3, 4] : List Byte) ≠ [1, 2, 3, 4] := by
  decide

/-- A GROUPS section without a record. -/
def noGroups : List Byte := [2, 0, 2, 0, 0, 0, 0, 0]
/-- A GROUPS section that names group 0. -/
def groupZero : List Byte := [2, 0, 12, 0, 1, 0, 1, 0] ++ List.replicate 10 0
/-- A DRILLS section without a record. -/
def noDrills : List Byte := [7, 0, 2, 0, 0, 0, 0, 0]

/-- The checks of a section pass. -/
def passes (k : SectKind) (body : List Byte) : Bool :=
  match judgeChecks none (sectionChecks k body) with
  | .passed _ => true
  | .refused _ _ => false

/-- The header of a section agrees, as LOAD_COPY_END asks it. -/
def agreeing (k : SectKind) (bytes : List Byte) : Prop :=
  wordAt bytes 0 = k.num ∧ wordAt bytes 2 + 6 = bytes.length ∧ BitVec.ofNat 16 (wordAt bytes 4) = byteSum (bytes.drop 6)

theorem test_LoadInstallsASection_met :
    (let s := ready.onPower fun p => { p with storeOp := some (.load 0 7 .groups 0 8 noGroups true) };
      s.up = true ∧ s.power.storeOp = some (.load 0 7 .groups 0 noGroups.length noGroups true)) ∧
    ¬ agreeing .site noGroups ∧ (agreeing .groups noGroups ∧
      judgeChecks none (sectionChecks .groups (noGroups.drop 6)) = .passed none) ∧
    (agreeing .groups groupZero ∧ judgeChecks none (sectionChecks .groups (groupZero.drop 6)) = .refused .badParam 0) ∧
    (agreeing .drills noDrills ∧ judgeChecks none (sectionChecks .drills (noDrills.drop 6)) = .passed none ∧
      (∀ b, ready.inDrill b = false) ∧ ∃ b, (drilling .evacuating none).inDrill b = true) := by
  unfold agreeing; decide

theorem judge_pass (cs : List Check) (h : ∀ c ∈ cs, c = .pass) : judgeChecks none cs = .passed none := by
  induction cs with
  | nil => rfl
  | cons c cs ih =>
    rw [h c List.mem_cons_self]
    exact ih fun d hd => h d (List.mem_cons_of_mem _ hd)

theorem must_pass {ok : Bool} {p : Word} (h : ok = true) : must ok p = .pass := by rw [h]; rfl

/-- The bytes of a CALENDAR section's DST rule. -/
def ruleBytes : List Byte := [0, 0, 3, 5, 0, 1, 10, 5, 0, 1]

/-- A CALENDAR body of bytes of 1 but for its DST rule. -/
def calendarBody (n : Nat) : List Byte := List.replicate n 1 ++ ruleBytes

theorem calendarBody_length (n : Nat) : (calendarBody n).length = n + 10 := by simp [calendarBody, ruleBytes]

theorem calendarBody_one {n k : Nat} (h : k < n) : byteAt (calendarBody n) k = 1 := by
  simp [calendarBody, byteAt, List.getD, List.getElem?_append, h]

theorem calendarBody_rule {n k : Nat} (h : n ≤ k) : byteAt (calendarBody n) k = byteAt ruleBytes (k - n) := by
  simp [calendarBody, byteAt, List.getD, List.getElem?_append, Nat.not_lt.mpr h]

theorem calendarBody_passes : judgeChecks none (calendarChecks (calendarBody 578)) = .passed none := by
  have hl : ((calendarBody 578).length == 588) = true := by rw [calendarBody_length]; rfl
  refine judge_pass _ fun c hc => ?_
  simp only [calendarChecks, inOrder, judgeChecks, hl, if_true, List.nil_append, forEach, schedChecks, ruleChecks,
    List.mem_append, List.mem_cons, List.mem_flatMap, List.mem_range, List.not_mem_nil, or_false] at hc
  generalize hb : calendarBody 578 = body at hc
  have one {k : Nat} (h : k < 578) : byteAt body k = 1 := hb ▸ calendarBody_one h
  have rule {k : Nat} (h : 578 ≤ k) : byteAt body k = byteAt ruleBytes (k - 578) := hb ▸ calendarBody_rule h
  obtain (((((rfl | ⟨d, hd, rfl⟩) | ⟨t, ht, rfl⟩) | ⟨g, hg, (rfl | ⟨t, ht, rfl⟩) | rfl | rfl⟩) | rfl) |
    (rfl | rfl | rfl | rfl)) | (rfl | rfl | rfl | rfl) := hc
  · exact must_pass (by simp [wordAt, one])
  · exact must_pass (by simp [one (k := 2 + d) (by omega)])
  · exact must_pass (by simp [one (k := 402 + t) (by omega)])
  · exact must_pass (by simp [one (k := 418 + 20 * g) (by omega)])
  · exact must_pass (by simp [one (k := 418 + 20 * g + 4 + t) (by omega)])
  · unfold inside wordAt; rw [one (by omega), one (by omega)]; rfl
  · exact must_pass (by simp [one (k := 418 + 20 * g + 1) (by omega)])
  all_goals exact must_pass (by simp (disch := decide) only [rule]; decide)

/-- Bodies of a SITE, a LINES and a CALENDAR section that pass, and what SITE and DRILLS ask of the state, met and not. -/
theorem test_LoadInstallsASection_tables :
    passes .site (List.replicate 204 0) = true ∧ passes .lines ([8, 8] ++ List.replicate 64 0) = true ∧
    judgeChecks none (sectionChecks .calendar (calendarBody 578)) = .passed none ∧
    (∀ b, ready.router.view.at b = .quiet) ∧
    (ready.onRouter fun r => { r with view := r.view.put 5 .alerted }).router.view.at 5 ≠ .quiet :=
  ⟨by decide +kernel, by decide +kernel, calendarBody_passes, by decide, by decide⟩

/-- A LINES section's line 0 keeps its kind, and its line 7 does not; a select conversion of each; and a group that works. -/
theorem test_LoadInstallsASection_lines :
    let body : List Byte := [8, 1] ++ [1, 12, 3, 0] ++ List.replicate 60 0;
    passes .lines body = true ∧ ((linesData body).setups.at 0).kind = dial.kind ∧
    ((linesData body).setups.at 7).kind ≠ dial.kind ∧
    (ready.onScan fun r => { r with converter := some ⟨lineChannel 7, .select true⟩ }).scan.converter =
      some ⟨lineChannel 7, .select true⟩ ∧
    (let s := ready.onGroup 0 fun r => { r with working := true, date := some 0 };
      (s.groupWork 0).working = true ∧ (s.groupWork 0).date = some 0 ∧ (s.groupWork 7).working = false) ∧
    ready.scan.converter = none := by decide +kernel

/-- Line 0 with a pulse in flight. -/
def pulsing (imp : Impulse) (r : Line) (s : State) : State := withDial { r with inflight := some imp } s

theorem test_SelectRequestsFastImpulsesAndProbes_met :
    (let s := pulsing pulse dial (readyAt 1);
      s.up = true ∧ (s.clock 0).inflight = some pulse ∧ pulse.coded = false ∧ pulse.asked = false ∧
        pulse.start + pulse.width / 2 ≤ s.time.elapsed ∧ s.scan.converter = none ∧ s.scan.queue = []) ∧
    (let s := ready.onScan fun r => { r with converter := some ⟨8, .scan⟩ };
      s.scan.converter ≠ none ∧ (0 : LineId) ∉ s.scan.queue) ∧ State.reset.up = false := by decide

theorem test_SelectRequestsFastImpulsesAndProbes_starts :
    (let s := withDial { dial with state := .advancing, fastTimer := some 12 } (readyAt 12);
      s.up = true ∧ (s.clock 0).state = .advancing ∧ (s.clock 0).inflight = none ∧ (s.clock 0).fastTimer = some 12 ∧
        12 ≤ s.time.elapsed ∧ s.power.power = .normal ∧ s.time.quality ≠ .unset) ∧
    (let s := withDial { dial with state := .fault, probeTimer := some 480 } (readyAt 480);
      (s.clock 0).state = .fault ∧ (s.clock 0).inflight = none ∧ (s.clock 0).probeTimer = some 480 ∧ 480 ≤ s.time.elapsed ∧
        (s.clock 0).kind ≠ .coded) ∧
    (withDial { dial with kind := .coded, state := .fault, probeTimer := some 480 } (readyAt 480)).scan.queue = [] ∧
    (ready.onPower fun p => { p with power := .reserve }).power.power ≠ .normal := by decide

/-- A coded line with a frame of eight bytes in flight. -/
def framing : State :=
  pulsing { pulse with coded := true, bytes := [5, 1, 2, 3, 4, 5, 6, 7] } { dial with kind := .coded } ready

theorem test_SelectRequestsFastImpulsesAndProbes_outputs :
    (framing.up = true ∧ framing.power.power = .normal ∧ (framing.clock 0).inflight =
      some { pulse with coded := true, bytes := [5, 1, 2, 3, 4, 5, 6, 7] } ∧
      ([5, 1, 2, 3, 4, 5, 6, 7] : List Byte).length = 8 ∧ ([5, 1, 2, 3, 4, 5, 6, 7] : List Byte)[7]? = some 7) ∧
    ((withDial { dial with kind := .coded } ready).clock 0).inflight = none ∧
    ¬ ((framing.onPower fun p => { p with power := .reserve }).power.power = .normal) := by decide

/-- R141: byte 5 of a frame on the A output: a start bit off, bits 0 and 2 on, a stop bit on. -/
theorem test_frame_bits : (List.range 10).map (framing.codedOutput 0) =
    [false, true, false, true, false, false, false, false, false, true] := by decide
/-- R129: the enable of the impulse's polarity is driven, and that of a frame is not. -/
theorem test_enable_driven : (pulsing { pulse with polarity := .b } dial ready).enableDriven 0 = some .b ∧
    framing.enableDriven 0 = none := by decide

/-- Line 0 on a boundary of its unit in a state. -/
def lineAt (st : LineState) (display : Nat) : State := withDial { dial with state := st, display := some display } ready

/-- A line that issues, one whose target comes to its display, and a coded line, with and without a frame in flight. -/
theorem test_LinesAtBoundariesMovesAndTheArbiter_met :
    (let s := lineAt .advanceWait 719;
      (s.clock 0).kind = .minute ∧ 43140 % 60 = 0 ∧ s.up = true ∧ s.power.power = .normal ∧ s.time.quality ≠ .unset ∧
        (s.clock 0).inflight = none ∧ (s.clock 0).state = .advanceWait) ∧
    ((lineAt .holding 719).clock 0).display = some (43140 / 60 % 720) ∧
    (let s := withDial { dial with kind := .coded } ready; (s.clock 0).kind = .coded ∧ (s.clock 0).state = .inStep) ∧
    ((withDial { dial with kind := .coded, inflight := some pulse } ready).clock 0).inflight ≠ none := by decide

/-- The arbiter's cases: a grant free and none free, and a line that leaves with its grant. -/
theorem test_LinesAtBoundariesMovesAndTheArbiter_arbiter :
    oneGrant.line.arbiterRight ∧ (oneGrant.clock 0).state = .advancing ∧ oneGrant.line.waiting = [7] ∧
    (let s := oneGrant.onClock 3 fun _ => dial;
      (s.clock 3).state = .inStep ∧ s.line.budget ≤ s.line.grants.length ∧ ready.line.grants.length < ready.line.budget) :=
  ⟨oneGrant_arbiterRight, by decide, by decide, by decide⟩

theorem test_VerdictsOfImpulses_met :
    (let s := pulsing pulse { dial with display := some 719 } (readyAt 3);
      s.up = true ∧ (s.clock 0).inflight = some pulse ∧ pulse.coded = false ∧ pulse.start + pulse.width ≤ s.time.elapsed) ∧
    (let imp : Impulse := { pulse with kind := .frame, coded := true, result := some .openCircuit };
      let s := pulsing imp { dial with kind := .coded, failCount := 1 } ready;
      s.up = true ∧ (s.clock 0).inflight = some imp ∧ imp.coded = true ∧ (s.clock 0).state ≠ .fault ∧
        1 ≤ (s.clock 0).failCount) ∧
    (let s := pulsing { pulse with kind := .probe } { dial with state := .fault } (readyAt 3);
      (s.clock 0).state = .fault ∧ (s.clock 0).kind.impulses = true) ∧
    (let s := pulsing { pulse with kind := .fast } { dial with state := .advancing, display := some 719 } (readyAt 3);
      (s.clock 0).state = .advancing ∧ (s.clock 0).reeval = false ∧
        (s.clock 0).display.map (fun d => (d + 1) % (s.clock 0).kind.period) = some (s.lineTarget 0)) ∧
    (pulsing pulse dial (readyAt 2)).time.elapsed < pulse.start + pulse.width := by decide

/-- R131's steps: a pending decision, with mains and without; a line IN_STEP that finds a lag and one that finds none; a
line still ADVANCING; and one in another state. -/
theorem test_VerdictsOfImpulses_goesOn :
    (let s (r : Line) : State := pulsing pulse r (readyAt 3);
      ∀ r ∈ [{ dial with reeval := true }, { dial with display := some 5 }, { dial with display := some 719 },
          { dial with state := .advancing, display := some 5 }, { dial with state := .holding }],
        (s r).up = true ∧ ((s r).clock 0).inflight = some pulse ∧ pulse.start + pulse.width ≤ (s r).time.elapsed ∧
          ((s r).clock 0).state ≠ .fault ∧ (s r).power.power = .normal ∧ (s r).time.quality ≠ .unset) ∧
    ((pulsing pulse dial (readyAt 3)).lineLag 0 6 ≠ 0 ∧ (pulsing pulse dial (readyAt 3)).lineLag 0 0 = 0) ∧
    (pulse.result = none ∧ pulse.coded = false ∧ (719 + 1) % LineKind.minute.period = 0) ∧
    ((pulsing pulse { dial with reeval := true } (readyAt 3)).onPower fun p => { p with power := .reserve }).up = true := by
  decide

theorem test_CorrectionDecision_met :
    (let s := withDial { dial with q := 120 } ready;
      (s.clock 0).kind.impulses = true ∧ s.time.eighth ≤ 7 ∧ (s.clock 0).q ≤ 120 ∧ (s.clock 0).display = some 0 ∧
        (s.clock 0).state.decides = true) ∧
    (let s := withDial dial (ready.onTime fun r => { r with stdSec := 60, eighth := 7 });
      (s.lineDecision 0 0).lag = 1 ∧ (s.lineDecision 0 2).lag = 719) := by decide

theorem test_SetDisplay_met :
    (withDial dial ready).takes 0 ∧ 7 < (8 : Byte).toNat ∧ 1 < (2 : Byte).toNat ∧ (7 : LineId).val = (7 : Byte).toNat ∧
    (1 : Byte).toNat ≤ 1 ∧ (ready.clock 7).kind.impulses = false ∧ dial.kind.impulses = true ∧
    dial.kind.period ≤ (720 : Word).toNat ∧ (719 : Word).toNat < dial.kind.period ∧
    ((withDial { dial with state := .unknown, display := none } ready).clock 0).state = .unknown ∧
    ({ dial with state := .fault } : Line).state.decides = false ∧ ready.power.power = .normal ∧
    ready.time.quality ≠ .unset ∧ dial.inflight = none ∧ ((pulsing pulse dial ready).clock 0).inflight ≠ none := by
  unfold State.takes; decide

theorem test_LineControl_met :
    ready.takes 0 ∧ (∀ l : LineId, l.val = (8 : Byte).toNat → (ready.clock l).kind = .disabled) ∧
    ((withDial dial ready).clock 0).kind ≠ .disabled ∧ (0 : LineId).val = (0 : Byte).toNat ∧
    ((withDial { dial with state := .stopped, display := none } ready).clock 0).state = .stopped ∧
    ((withDial { dial with state := .fault } ready).clock 0).state = .fault ∧
    ((withDial { dial with state := .unknown } ready).clock 0).state = .unknown ∧
    ready.time.quality ≠ .unset ∧ ready.power.power = .normal ∧ State.reset.time.quality = .unset := by
  unfold State.takes; decide

/-- RUN of a line that decides, and of a stopped one that is decided, at once or when its impulse ends, or not at all. -/
theorem test_LineControl_runs :
    (let s := withDial { dial with state := .holding, display := some 719 } ready;
      s.takes 0 ∧ (s.clock 0).state.decides = true ∧ (s.clock 0).kind ≠ .coded ∧ (s.clock 0).display = some 719 ∧
        (s.clock 0).inflight = none) ∧
    (let s := pulsing pulse dial ready; s.takes 0 ∧ (s.clock 0).state.decides = true ∧ (s.clock 0).inflight ≠ none) ∧
    (let s := withDial { dial with state := .stopped, stopped := true } ready;
      s.takes 0 ∧ (s.clock 0).state = .stopped ∧ (s.clock 0).kind ≠ .coded ∧ (s.clock 0).display = some 0 ∧
        (s.clock 0).inflight = none) ∧
    (let s := pulsing pulse { dial with state := .stopped } ready;
      s.takes 0 ∧ (s.clock 0).state = .stopped ∧ (s.clock 0).display = some 0 ∧ (s.clock 0).inflight ≠ none) ∧
    ¬ ((ready.onPower fun p => { p with power := .reserve }).power.power = .normal) ∧
    ((withDial { dial with kind := .coded } ready).clock 0).kind = .coded := by unfold State.takes; decide

theorem test_ConversionEnds_met :
    (let s := ready.onScan fun r => { r with converter := some ⟨23, .scan⟩, pos := 23 };
      s.up = true ∧ s.scan.converter = some ⟨23, .scan⟩ ∧ (23 : ChannelId) = ampChannel 15) ∧
    (let s := (ready.onScan fun r => { r with converter := some ⟨8, .scan⟩ }).onChannel 8 fun c => { c with history := [0, 0] };
      3 ≤ (((s.channel 8).history ++ [0]).filter fun v => (s.channel 8).classify v == ChanClass.openCircuit).length) ∧
    (let s := (pulsing pulse dial ready).onScan fun r => { r with converter := some ⟨0, .select true⟩ };
      s.scan.converter = some ⟨0, .select true⟩ ∧ (0 : ChannelId) = lineChannel 0 ∧ (s.clock 0).inflight = some pulse ∧
        (s.channel 0).shortT < (961#10).toNat) := by decide

/-- A window out of range, and at its edges; a boundary at which the mains leaves PRESENT, one at which it comes, at the edges
of its crossings, and battery-low in RESERVE. -/
theorem test_MainsMonitor_met :
    (ready.power.supplied = true ∧ ready.power.windowDue = none ∧ State.reset.up = false) ∧
    (let s := ready.onPower fun p => { p with windowDue := some 359 };
      s.power.windowDue = some 359 ∧ s.power.mains = .present ∧ s.power.power = .normal ∧ s.up = true ∧ 359 < 360 ∧
        ¬ 520 < 520 ∧ 520 < 521) ∧
    (ready.power.mains = .present ∧ ready.power.crossings = 0) ∧
    (let s := ready.onPower fun p => { p with mains := .qualifying, power := .reserve, qualEighths := 39, qualCross := 224
                                              crossings := 1 };
      s.power.mains = .qualifying ∧ s.power.crossings ≠ 0 ∧ ¬ s.power.qualEighths + 1 < 40 ∧
        225 ≤ s.power.qualCross + s.power.crossings ∧ 324 + s.power.crossings ≤ 325 ∧ s.power.power = .reserve ∧ s.up = true) ∧
    (let s := (ready.onPower fun p => { p with power := .retained }); s.power.power = .retained ∧ s.live = true) ∧
    (let s := (ready.onPower fun p => { p with power := .reserve }).setPins { pinsAtRest with batteryLow := true };
      s.up = true ∧ s.power.power = .reserve ∧ s.pins.batteryLow = true) ∧
    (pulsing pulse dial (readyAt 2)).noneDown ∧ ((pulsing pulse dial (readyAt 2)).clock 0).inflight = some pulse ∧
    pulse.hostSet = false ∧ pulse.width ≤ 2 * (2 - pulse.start) := by unfold State.noneDown; decide

/-- A running part with a crossing in its eighth, a LOAD in flight and a generator that plays. -/
theorem test_EighthBoundaryWork_met :
    let asked : Line := { dial with state := .fault, probeAsked := true };
    let s := (((((readyAt 63).onPower fun p => { p with
      crossings := 12, storeOp := some (.load 0 7 .groups 0 8 [] false) }).onGen 0 fun _ => { busy .bell with copy := [⟨552, none, 4, 4⟩] }).onClock
        0 fun _ => asked).onClock 6 fun _ => { asked with kind := .coded, outputOff := true }).onClock
          7 fun _ => { asked with state := .inStep };
    let u := s.dueAll.hostWrites [];
    s.power.supplied = true ∧ u.up = true ∧ u.power.mains = .present ∧ 0 < u.power.crossings ∧ u.power.power = .normal ∧
      u.time.stdSec < 3155759999 ∧ u.rh.queue = [] ∧ (u.clock 0) = asked ∧ asked.inflight = none ∧
      u.time.quality ≠ .unset ∧ (u.clock 6).kind = .coded ∧ (u.clock 6).state = .fault ∧ (u.clock 7).probeAsked = true ∧
      (u.clock 7).state ≠ .fault ∧ (u.clock 1).probeAsked = false ∧
      (∀ j, (u.rh.cells.at j).inFlight = true ∨ (u.mem.readWord (cellBase j)).toNat % 16 ≠ 1) ∧
      (u.gen 0).users ≠ [] ∧ (u.gen 0).begun = false ∧ (u.gen 0).copy[0]? = some ⟨552, none, 4, 4⟩ := by decide +kernel

theorem test_Starts_met :
    (let s := ready.onPower fun p => { p with resetAsserted := true };
      s.power.supplied = true ∧ s.power.resetAsserted = true) ∧ ready.power.resetAsserted = false ∧
    ready.keep.power.retained.validity = ready.keep.power.retained.fields.sum ∧
    State.reset.power.retained.validity ≠ State.reset.power.retained.fields.sum ∧
    pinsAtRest.storeAnswers.getLsbD 0 = true ∧ State.reset.power.eeprom.readWord 0 ≠ 0x6A3C ∧
    ({ pinsAtRest with storeAnswers := 0 } : Pins).storeAnswers.getLsbD 0 = false := by decide +kernel

theorem test_RunningEntry_met :
    State.reset.starting = true ∧ ready.starting = false ∧ State.reset.time.held = none ∧
    (∀ b, (State.reset.building b).contact = false ∧ (State.reset.building b).state = .quiet) ∧
    ((State.reset.onBuilding 5 fun r => { r with contact := true }).building 5).contact = true := by decide

/-- The blocks at RUNNING: time set and not, a retained date that is today and one that is not, a line that is decided and one
with an impulse in flight. -/
theorem test_RunningEntry_blocks :
    (ready.time.quality ≠ .unset ∧ State.reset.time.quality = .unset ∧ State.reset.cal.todayType = none) ∧
    (ready.groupWork 0).date ≠ some ready.civil.day ∧
    ((ready.onGroup 0 fun r => { r with date := some 0 }).groupWork 0).date = some ready.civil.day ∧
    (let u := withDial dial ready; u.up = true ∧ u.power.power = .normal ∧ (u.clock 0).kind.impulses = true ∧
      (u.clock 0).state = .inStep ∧ (u.clock 0).inflight = none) ∧
    ((pulsing pulse dial ready).clock 0).inflight ≠ none ∧ ¬ (State.reset.up = true) := by decide

/-- Cell 0 posted with a kind. -/
def posted (kind : Byte) : State := ready.onMem fun m => m.write 0x100 [1, kind]

theorem test_HostRegistersAndSweeps_met :
    (ready.power.supplied = true ∧ ready.power.resetAsserted = false ∧ ready.power.power ≠ .retained) ∧
    (ready.onPower fun p => { p with power := .retained }).power.power = .retained ∧
    (State.reset.power.part = .starting ∧ State.reset.power.power ≠ .retained) ∧
    (ready.up = true ∧ (∀ j, ¬ ((ready.rh.cells.at j).inFlight = false ∧ (ready.mem.readWord (cellBase j)).toNat % 16 = 1)) ∧
      ready.rh.queue = []) ∧
    (((posted 17).mem.readWord (cellBase 0)).toNat % 16 = 1 ∧ 16 < ((posted 17).mem.readWord (cellBase 0)).toNat / 256 ∧
      ((posted 16).mem.readWord (cellBase 0)).toNat / 256 = 16 ∧
      ∀ j, j ≠ 0 → ¬ (((posted 16).rh.cells.at j).inFlight = false ∧ ((posted 16).mem.readWord (cellBase j)).toNat % 16 = 1)) ∧
    (let s := (readyAt 16).onRh fun r => { r with current := some ⟨7, 1, 2, 0, some 0⟩ };
      s.up = true ∧ s.rh.current = some ⟨7, 1, 2, 0, some 0⟩ ∧ 0 + 16 ≤ s.time.elapsed ∧ s.rh.queue = []) ∧
    ready.rh.current = none := by decide

/-- Cell 0 posted with a request as its command posts it. -/
def cellHolds (k : ReqKind) (params : List Byte) : State := ready.onMem (Mem.post 0 k 7 params)

/-- Each kind of request, posted in cell 0 alone, meets what the clause of the sweep that takes it asks for. -/
theorem test_HostRegistersAndSweeps_takes :
    ready.up = true ∧ ready.rh.queue.length ≤ Config.queueLimit ∧ ready.rh.current = none ∧
    ∀ p ∈ ([(.timeSet, timeSetParams 2026 1 2 3 4 5 0), (.dayOverride, dayOverrideParams 0 1 2026 1 2),
        (.dayOverride, dayOverrideParams 1 0 2026 1 2), (.admissionSet, admissionParams ⟨0, 0, 1⟩ 1 2),
        (.admissionSet, admissionParams ⟨0, 0, 1⟩ 4 0), (.announce, announceParams 4 0 1 2 1 40 8 ⟨0, 0, 1⟩),
        (.cancel, cancelParams 0 3 0), (.cancel, cancelParams 1 0 9), (.consoleSet, [1, 2, 4]), (.drillStart, [1, 2]),
        (.drillAbort, [1]), (.allClear, [1]), (.hush, [1]), (.logCopy, wordBytes 64),
        (.lineSetDisplay, setDisplayParams 0 1 5), (.lineControl, [0, 0]), (.lineControl, [0, 1]), (.lineControl, [0, 2]),
        (.load, loadParams 0 0 20), (.save, [])] : List (ReqKind × List Byte)),
      let s := cellHolds p.1 p.2;
      Mem.wf s.mem ∧ s.mem.readWord (cellBase 0) = BitVec.ofNat 16 (1 + 256 * p.1.num) ∧
        1 ≤ (s.mem.readWord (cellBase 0)).toNat / 256 ∧ (s.mem.readWord (cellBase 0)).toNat / 256 ≤ 15 ∧
        s.mem.readWord (cellBase 0 + 2) = 7 ∧ s.mem.readBytes (cellBase 0 + 8) 40 = (p.2 ++ List.replicate 40 0).take 40 ∧
        (s.rh.cells.at 0).inFlight = false ∧
        ∀ j : CellId, j ≠ 0 → (s.mem.readWord (cellBase j)).toNat % 16 ≠ 1 := by decide +kernel

theorem test_MirrorAndHeaderShowTheState_met : (atSecond 59).up = true ∧ (atSecond 59).time.boundaryDue = true := by decide

/-! ### One step of each family -/

/-- The state after a command. -/
def after (c : Instr) (s : State) : State :=
  match exec c s with
  | .next t => t
  | .fault _ => s
  | .refused _ => s

/-- The inputs of a quiet boundary. -/
def quietBoundary : BoundaryInput := ⟨pinsAtRest, [], [], false, false, false⟩

/-- R1: the elapsed count goes up by one. -/
theorem test_eighth_counts : (after (.eighthEnd quietBoundary) State.reset).time.elapsed = 1 := by decide +kernel
/-- R2: eighth 6 of a shortened second is its last. -/
theorem test_shortened_second :
    (after (.eighthEnd quietBoundary) (State.reset.onTime fun _ => slewing 2 6 false 0)).time.boundaryDue = true := by
  decide +kernel
/-- R2, R5: a shortened second ends with the remainder one nearer to 0. -/
theorem test_second_boundary :
    let t := (after .standardSecondBoundary (State.reset.onTime fun _ => { slewing 2 6 false 9 with boundaryDue := true })).time;
    t.stdSec = 10 ∧ t.eighth = 0 ∧ t.slewRem = 1 := by decide +kernel
/-- R4. -/
theorem test_locked_ends :
    (after .lockedPeriodEnd ((readyAt 57600).onTime fun r => { r with quality := .locked, qualityTimer := some 0 })).time.quality =
      .holdover := by decide +kernel
/-- R9: 'T' begins a telegram. -/
theorem test_telegram_begins :
    (after (.telegramCharacter ⟨0x54, true, true⟩ false) (readyAt 5)).time.assembly = some ⟨[0x54], 5⟩ := by decide +kernel
/-- R13: a telegram steps UNSET time. -/
theorem test_telegram_sets_time :
    let t := (after (.telegramCharacter ⟨0x0D, true, true⟩ false) (expecting .unset 5 0)).time;
    t.stdSec = 852120000 ∧ t.quality = .locked := by decide +kernel
/-- R14: 2027-01-01 12:00:00, from UNSET, and the cell reads DONE, OK, kind 1. -/
theorem test_time_set :
    let t := after (.timeSet 2 9 2027 1 1 12 0 0 0) (ready.onTime fun r => { r with quality := .unset });
    t.time.stdSec = 852120000 ∧ t.time.quality = .free ∧ t.mem.readWord (cellBase 2) = 0x0103 := by decide +kernel
/-- R14 step 1: RANGE is DONE's opposite, REFUSED with code 4. -/
theorem test_time_set_range : (after (.timeSet 2 9 1999 1 1 12 0 0 0) ready).mem.readWord (cellBase 2) = 0x0144 := by
  decide +kernel
/-- R27. -/
theorem test_day_override : (after (.dayOverrideSet 0 9 2000 1 2 5) ready).cal.overrides = [⟨1, 5⟩] := by decide +kernel
/-- R61: a minute is 480 eighths. -/
theorem test_admission_set :
    let t := after (.admissionSet 0 9 ⟨1, 0, 2⟩ 0 1) (readyAt 20);
    (t.zone 1).override = some ⟨.off, some 500⟩ ∧ (t.zone 1).effective = .off ∧ (t.zone 0).override = none := by
  decide +kernel
/-- R86, R87: a tone for group 0 takes record 0 and all 64 zones, and is ACTIVE on a generator. -/
theorem test_announce :
    let t := after (.announce 0 9 3 0 2 0 0 40 0 ⟨0, 0, 0⟩) ready;
    (t.zone 63).occupant = some 0 ∧ (t.gen 0).users = [0] ∧
      t.mem.readBytes (cellBase 0 + 48) 6 = [0, 1, 64, 0, 0, 0] := by decide +kernel
/-- R88. -/
theorem test_cancel : (after (.cancelByTag 1 9 7) (withTalker (talker .page (.console 0)) ready)).sess 0 = none := by
  decide +kernel
/-- R83: a press with no target is refused. -/
theorem test_press_refused :
    ((after (.pttPress 0) (ready.onConsole 0 fun r => { r with pttCount := 2 })).console 0).refusedMark = true := by
  decide +kernel
/-- R79: console 1 is bus 7. -/
theorem test_console_bus :
    (after .crosspointFrame ((withTalker (talker .page (.console 1)) ready).judgeFrame)).router.latched.at 0 = some 7 := by
  decide +kernel
/-- R79: a new occupant's bus is marked as a change. -/
theorem test_selection_change_marked :
    let t := after (.announce 0 9 3 0 2 0 0 40 0 ⟨0, 0, 0⟩) ready;
    t.router.changed = true ∧ t.router.seen.at 0 = some 0 := by decide +kernel
/-- R79: a frame is sent though every selection is back to what it was at the last boundary. -/
theorem test_change_undone_is_sent :
    let t := after (.eighthEnd quietBoundary) (ready.onRouter fun r => { r with changed := true });
    t.router.frame = some (Tab.all 64 none) ∧ t.router.changed = false := by decide +kernel
/-- R144: the probe asked for starts at the boundary, for the line's width. -/
theorem test_asked_probe_starts :
    ((after (.eighthEnd quietBoundary) ((withDial { dial with state := .fault, probeAsked := true } (readyAt 5)).onPower
      fun p => { p with crossings := 12 })).clock 0).inflight = some ⟨.probe, false, [], 6, 3, .a, false, none, false⟩ := by
  decide +kernel
/-- R179: an urgent record closes the page it goes into. -/
theorem test_urgent_record_closes :
    let t := (ready.onRh fun r => { r with current := some ⟨7, 5, 3, 0, some 3⟩ }).report (.buildingState 0 .quiet .alarm .contact);
    t.rh.current = none ∧ t.mem.readWord (pageBase 7) = 2 ∧ t.mem.readWord (pageBase 7 + 4) = 4 := by decide +kernel
/-- R37: a move within the date fires what it passes, and the watermark follows. -/
theorem test_move_within_the_date :
    let t := (ringing 28000).handMove ⟨some ⟨0, 28000, 0⟩, ⟨0, 28810, 0⟩, .hostStep, .unchanged⟩;
    (t.groupWork 0).watermark = 28810 ∧ (t.sess 0).isSome = true := by decide +kernel
/-- R146: with its kind kept an ADVANCING line is IN_STEP and decided; with another it is UNKNOWN. -/
theorem test_lines_installed :
    let d := linesData ([8, 1] ++ [1, 12, 3, 0] ++ List.replicate 60 0);
    let s := (oneGrant.onClock 7 fun _ => { dial with state := .holding, failCount := 1 }).installLines d.budget d.setups;
    s.line.grants = [] ∧ (s.clock 0).state = .inStep ∧ (s.clock 7).state = .disabled ∧ (s.clock 7).failCount = 0 := by
  decide +kernel
/-- R95: step 1 has no tone phase, so its silence follows. -/
theorem test_empty_phase_passed_over :
    ((after (.patternPhaseEnd 3) (ready.onGen 3 fun _ => playing 0 false)).gen 3).left = 16 := by decide +kernel
/-- R110, R111: building 1 is in building 0's spread set. (The report writer is off here: a building's mirror
record holds bytes with no stated coding, so memory behind it does not evaluate.) -/
theorem test_alarm_spreads :
    let t := after (.fireContactClosure 0) (((ready.onBuilding 0 fun r => { r with contactCount := 16 }).onRouter fun r =>
      { r with spread := r.spread.put 0 3 }).onRh fun r => { r with writerOn := false });
    (t.building 0).state = .alarm ∧ (t.building 1).state = .alerted ∧ (t.building 1).sources = 1 ∧
      (t.drill.log.map (·.building)) = [0] := by decide +kernel
/-- R113: of the buildings named, 0 is in ALARM. -/
theorem test_hush : ((after (.hush 3 9 3) (recorded true .alarm)).building 0).state = .alarmHushed := by decide +kernel
/-- R113: a QUIET building answers STATE: nibbles STATE, STATE, and 15 for those not named. -/
theorem test_hush_refused :
    (after (.hush 3 9 3) ready).mem.readWord (cellBase 3) = 0x0A74 ∧
      (after (.hush 3 9 3) ready).mem.readBytes (cellBase 3 + 48) 3 = [0x77, 0xFF, 0xFF] := by decide +kernel
/-- R114: a closed contact. -/
theorem test_all_clear_contact :
    (after (.allClear 3 9 1) ((recorded true .alarm).onBuilding 0 fun r => { r with contact := true })).mem.readWord
      (cellBase 3) = 0x09D4 := by decide +kernel
/-- R116: profile 0 has no pre-alert and a limit of 900 s. -/
theorem test_drill_start :
    ((after (.drillStart 0 9 1 0) (readyAt 10)).building 0).timer = some (.limit, 10 + 7200) := by decide +kernel
/-- R118: the evacuation time is counted from the evacuation start. -/
theorem test_muster :
    let t := after (.musterPress 0) (((recorded false .evacuating).onBuilding 0 fun r => { r with musterCount := 2 }).onTime
      fun r => { r with elapsed := 80 });
    (t.building 0).state = .mustered ∧ t.drill.log.map (·.evacTime) = [some 80] := by decide +kernel
/-- R124: an odd offset. -/
theorem test_log_copy_odd : (after (.logCopy 0 9 1) ready).mem.readWord (cellBase 0) = 0x0B34 := by decide +kernel
/-- R131: 719 goes to 0, A to B. -/
theorem test_impulse_delivered :
    let r := (after (.impulseEnd 0) (pulsing pulse { dial with display := some 719 } (readyAt 3))).clock 0;
    r.display = some 0 ∧ r.polarity = .b ∧ r.inflight = none := by decide +kernel
/-- R140: the second failure in turn. -/
theorem test_impulse_fault :
    let r := (after (.impulseEnd 0) (pulsing { pulse with result := some .openCircuit } { dial with failCount := 1 }
      (readyAt 3))).clock 0;
    r.state = .fault ∧ r.display = some 0 ∧ r.probeTimer = some 483 := by decide +kernel
/-- R142: one minute behind, the line asks for a grant and has it. -/
theorem test_set_display :
    let t := after (.lineSetDisplay 0 9 0 1 719) (withDial { dial with state := .unknown, display := none } ready);
    (t.clock 0).state = .advancing ∧ (t.clock 0).polarity = .b ∧ t.line.grants = [0] := by decide +kernel
/-- R143. -/
theorem test_stop : ((after (.lineControlStop 0 9 0) (withDial dial ready)).clock 0).state = .stopped := by decide +kernel
/-- R154, R64: three readings of 0 are OPEN, and zones 0 to 3 are at fault. -/
theorem test_amplifier_open :
    let t := after (.conversionEnd 0) ((ready.onScan fun r => { r with converter := some ⟨8, .scan⟩ }).onChannel 8
      fun c => { c with history := [0, 0] });
    (t.channel 8).cls = .openCircuit ∧ (t.zone 3).fault = true ∧ (t.zone 4).fault = false ∧ t.scan.pos = 9 := by
  decide +kernel
/-- R158, R160: 359 crossings in a window are too few. -/
theorem test_frequency :
    let t := after .frequencyWindowEnd ((withTalker (talker .bell (.tone 0)) ready).onPower fun p => { p with windowDue := some 359 });
    t.power.power = .reserve ∧ t.power.mains = .absent ∧ t.sess 0 = none := by decide +kernel
/-- R164: a block torn by a failing supply makes the next start COLD. -/
theorem test_cold_after_torn :
    (after (.supplyApplied pinsAtRest) (after (.supplyFailure 1) ready.keep)).power.cause = .cold := by decide +kernel
/-- R165: the part is RUNNING, its start COLD. -/
theorem test_running_entry :
    (after .runningEntry State.reset).power.part = .running ∧ (after .runningEntry State.reset).power.cause = .cold := by
  decide +kernel
/-- R174 step 1: kind 17 does not exist. -/
theorem test_unknown_kind : (after (.sweepWrite 0 [] []) (posted 17)).mem.readWord (cellBase 0) = 0x1124 := by decide +kernel
/-- R184: a 1 clears, a 0 leaves. -/
theorem test_notice_write :
    (after (.noticeWrite 1) (ready.onRh fun r => { r with notice := 3 })).rh.notice = 2 := by decide +kernel
/-- R81: a PLAYING level sampled when the strobe was given starts nothing; one sampled after it does. -/
theorem test_playing_since_the_strobe :
    let s (n : Nat) : State := ((readyAt n).onPlayer 0 fun r => { r with current := some 0, strobeAt := some 5 }).setPins
      { pinsAtRest with playing := 1 };
    ((after (.playingRise 0) (s 5)).player 0).started = false ∧ ((after (.playingRise 0) (s 6)).player 0).started = true := by
  decide +kernel
/-- R81: a PLAYING level sampled high under PAUSE starts nothing, though PAUSE is off when the command comes. -/
theorem test_playing_sampled_under_pause :
    let s := ((readyAt 8).onPlayer 0 fun r => { r with current := some 0, strobeAt := some 5, pause := true }).samplePlayers;
    let t := (s.onPlayer 0 fun r => { r with pause := false }).setPins { pinsAtRest with playing := 1 };
    ((after (.playingRise 0) t).player 0).started = false := by decide +kernel
/-- R13, R177: a telegram that steps time sets quality first, so the record of that carries the time before the step. -/
theorem test_quality_recorded_before_the_step :
    (((expecting .free 5 3).onMem fun m => m.write (pageBase 0) [2]).actOn 852120000).rh.queue.map (fun q => (q.quality, q.sec, q.eighth)) =
      [(.locked, 5, 3), (.locked, 852120000, 0)] := by decide +kernel
/-- R94, R79: a key held through the start counts its first sample, and the first frame is latched. -/
theorem test_running_samples_the_keys :
    let t := after .runningEntry (State.reset.setPins { pinsAtRest with ptt := 2 });
    ((t.console 0).pttCount, (t.console 1).pttCount) = (0, 1) ∧ t.router.frame = none := by decide +kernel
/-- R172, R173, R113: a HUSH of a QUIET building, posted in a cell, is taken by the sweep and answered STATE. -/
theorem test_sweep_takes_a_request :
    let t := after (.sweepWrite 0 [] []) (cellHolds .hush [1]);
    t.mem.readWord (cellBase 0) = BitVec.ofNat 16 (finalWord 10 .state) ∧ t.rh.sweepCount = 1 := by decide +kernel
/-- R170: a RESTART starts a running part. -/
theorem test_restart :
    let t := after (.sweepWrite 0 [] []) (posted 16);
    t.power.part = .starting ∧ t.time.elapsed = 0 := by decide +kernel
/-- R158, R164: the mains, back after RETAINED, starts the part. -/
theorem test_mains_after_retained :
    let s := (readyAt 9).onPower fun p => { p with
      power := .retained, mains := .qualifying, qualEighths := 39, qualCross := 224, crossings := 1 };
    let t := after (.eighthEnd quietBoundary) s;
    t.power.power = .normal ∧ t.power.part = .starting ∧ t.time.elapsed = 0 := by decide +kernel
/-- R55: a GROUPS section of one record, of a group number 0, is refused at record 0. -/
theorem test_group_zero_refused :
    judgeChecks none (groupsChecks [1, 0, 0, 0, 1, 0, 0, 0, 0, 0, 0, 0]) = .refused .badParam 0 := by decide
/-- R150, R151: the chapter's run of select requests 2, 0, 1 before the scan: 2 is converted, 0 and 1 queue, the scan
gives way. -/
theorem test_select_requests_before_the_scan :
    let pulses := ((withDial { dial with inflight := some pulse } (readyAt 1)).onClock 1 fun _ =>
      { dial with inflight := some pulse }).onClock 2 fun _ => { dial with inflight := some pulse };
    let t := after .zeroCrossing (after (.impulseSelectRequest 1) (after (.impulseSelectRequest 0)
      (after (.impulseSelectRequest 2) (pulses.onScan fun r => { r with scanDue := true }))));
    t.scan.converter = some ⟨2, .select true⟩ ∧ t.scan.queue = [0, 1] ∧ t.scan.scanDue = false := by decide +kernel
/-- R64, R77, log entry 59: at its defer limit a BELL loses a deferred zone that is at fault. -/
theorem test_faulted_zone_lost :
    let x : Session := { talker .bell (.tone 0) with connected := 0, deferred := 1, deferLimit := 8 };
    let t := State.judge false 0 0 ((ready.setSess 0 (some x)).onZone 0 fun r => { r with fault := true });
    (t.zone 0).occupant = none ∧ (t.sess 0).map (·.lost) = some 1 ∧ (t.sess 0).map (·.deferred) = some 0 := by decide +kernel
/-- Worked case A of chapter 8: power becomes NORMAL at 14:47:20, eighth 0; the clocks show 10:12. (The second boundary
rewrites the mirror, as in `test_alarm_spreads`; so the power work after it stands alone here, with the writer off.) -/
theorem test_worked_case_A :
    let s := ((withDial { dial with q := 16, display := some 612 } (ready.onRh fun r => { r with writerOn := false })).onTime fun r =>
      { r with stdSec := 14 * 3600 + 47 * 60 + 19, eighth := 7 }).onPower fun p =>
      { p with power := .reserve, mains := .qualifying, qualEighths := 39, qualCross := 268, crossings := 7 };
    let t := (s.advanceTime.secondAt true).judgePower false;
    t.power.power = .normal ∧ t.time.eighth = 0 ∧ (t.clock 0).last = some ⟨.advance, 275, 445, 4552⟩ := by decide +kernel
/-- R93, R108: an alarm's EVACUATE signal in building 1, and the ALERT signal it makes in building 0. (The writer is off, as
in `test_alarm_spreads`.) -/
theorem test_alarm_signals :
    let t := after (.fireContactClosure 1) (closing.onRh fun r => { r with writerOn := false });
    (t.building 1).signal = some 0 ∧ (t.sess 0).map (·.source) = some (.tone 0) ∧ (t.sess 0).map (·.cls) = some .evacuate ∧
      (t.building 0).signal = some 1 ∧ (t.sess 1).map (·.source) = some (.tone 1) := by decide +kernel
/-- R97, R98: 100 Hz and 10,000 Hz are stored as the dividers of 200 and 4000. -/
theorem test_tones_clamped :
    (patternsData [1, 0, 4, 1, 100, 0, 0x10, 0x27, 4, 0, 4, 0]).at 4 = [⟨2621, some 131, 4, 4⟩] := by decide +kernel
/-- An image: DRILLS without a record at 60, GROUPS said to begin in the directory, PATTERNS of 5 records at 68, PROGRAMS at the
place of DRILLS, LINES with line 0 of kind MINUTE, q 200 and thresholds of 0 at 76; SITE and CALENDAR without an entry. -/
def imageBytes : List Byte :=
  [0x3C, 0x6A, 5, 0] ++ [7, 0, 60, 0, 8, 0, 9, 0] ++ [2, 0, 30, 0, 8, 0, 9, 0] ++ [3, 0, 68, 0, 8, 0, 15, 0] ++
  [4, 0, 60, 0, 8, 0, 9, 0] ++ [6, 0, 76, 0, 72, 0, 0xEE, 1] ++ List.replicate 16 0 ++
  [7, 0, 2, 0, 0, 0, 0, 0] ++ [3, 0, 2, 0, 5, 0, 5, 0] ++
  ([6, 0, 66, 0, 0xD3, 0] ++ [8, 1] ++ [1, 200, 1, 0] ++ List.replicate 60 0)
/-- A part without supply that holds that image, and whose valid block has line 0 a MINUTE line that shows 612, to go on with
B, stopped, and line 1 a MINUTE line, which it no longer is. -/
def beforeStart : State :=
  State.reset.onPower fun p => { p with
    supplied := false, eeprom := Mem.write [] 0 imageBytes
    retained := Retained.of { p.retained.fields with
      lines := ((Tab.all 8 ⟨.disabled, none, .a, false⟩).put 0 ⟨.minute, some 612, .b, true⟩).put 1
        ⟨.minute, some 7, .b, false⟩ } }
/-- R166: the outcome of each section. -/
theorem test_start_reads_the_image :
    let t := after (.supplyApplied { pinsAtRest with storeAnswers := 0xFF }) beforeStart;
    t.power.outcomes.toList.map SectOutcome.num = [SectOutcome.absent, .entryBad, .refused .badParam 0, .checksum, .absent,
      .clamped, .installed].map SectOutcome.num ∧ (t.power.images.at 6).isSome = true ∧ t.power.images.at 2 = none := by decide +kernel
/-- R148: line 0 takes back what the block holds and is STOPPED; line 1, of another kind, is DISABLED. -/
theorem test_start_takes_the_lines :
    let t := after (.supplyApplied { pinsAtRest with storeAnswers := 0xFF }) beforeStart;
    (t.clock 0).kind = .minute ∧ (t.clock 0).display = some 612 ∧ (t.clock 0).polarity = .b ∧
      (t.clock 0).state = .stopped ∧ (t.clock 1).state = .disabled ∧ (t.clock 1).display = none := by decide +kernel
/-- The last eighth of a second, with the second taken first, and another eighth. -/
theorem test_EighthBoundaryWork_second_first :
    let v (s : State) : State := ((s.dueAll.hostWrites []).judgeFrame.meetBoundary pinsAtRest).advanceTime;
    (v (ready.onTime fun r => { r with eighth := 7 })).time.boundaryDue = true ∧ (v ready).time.boundaryDue = false ∧
      (v (ready.onTime fun r => { r with eighth := 7 })).power.supplied = true := by decide +kernel
/-- R108: the three answers to an ask: the session's number; TABLE_FULL, and the signal is wanted; and a number whose session
has ended at creation, which in STANDING_DOWN ends the stand-down. -/
theorem test_signal_answers :
    (((drilling .alarm none).askSignal 0).building 0).signal = some 0 ∧
    (((fullTable.onBuilding 0 fun r => { r with state := .alarm }).askSignal 0).building 0).wanted = true ∧
    ((silent .standingDown none).askSignal 0).work.standDowns = [0] := by decide +kernel

end Sys2Proof.Tests
end

section
/-! PROOFS. The calendar and day plans (O8, O19). -/

namespace Sys2Proof.Machine

/-! ### O8: a day type held while today is none -/

/-- The part after reset, holding day type 0 though today is none, with the zones of group 0, all of them, as the quiet
group of that type, and every zone day-quiet. -/
def typeWithoutToday : State :=
  (State.reset.onCal fun c => { c with todayType := some 0, quietGroup := c.quietGroup.put 0 (some 0) }).onRouter
    fun r => { r with zones := Tab.all 64 { Zone.start with dayQuiet := true, effective := .emergencyOnly } }

theorem typeWithoutToday_quietMarksRight : typeWithoutToday.quietMarksRight := by
  unfold State.quietMarksRight
  decide

/-- Refutes O8, by its clause on the day-quiet mark: `State.quietMarksRight` ties the mark to the set of the day type held
(`State.dayQuietSet`), and asks for no today, while the conclusion asks that today is a day. In `typeWithoutToday` no
command waits, so that the step leaves it as it is, and zone 0 is day-quiet while today is none. -/
theorem not_overridesAndQuietMarksStayRight : ¬ Obligations.OverridesAndQuietMarksStayRight := by
  unfold Obligations.OverridesAndQuietMarksStayRight
  rintro ⟨-, marks⟩
  have idle : step typeWithoutToday = .next typeWithoutToday := rfl
  have quiet : (typeWithoutToday.zone 0).dayQuiet = true := by decide
  obtain ⟨-, day⟩ := marks _ _ typeWithoutToday_quietMarksRight idle 0
  obtain ⟨d, _, _, today, -⟩ := day.mp quiet
  have noToday : typeWithoutToday.cal.today = none := rfl
  rw [noToday] at today
  cases today


/-! ### Zones whose mode is looked at again keep the Bell Scheduler and every other mark -/

theorem refreshZone_bell (z : ZoneId) (s : State) : (s.refreshZone z).bell = s.bell := by
  unfold State.refreshZone
  split
  · rfl
  · exact (Fewer.rejudge z _).bell

theorem refreshZone_dayQuiet (z y : ZoneId) (s : State) :
    ((s.refreshZone z).zone y).dayQuiet = (s.zone y).dayQuiet := by
  unfold State.refreshZone
  split
  · rfl
  · rw [(Fewer.rejudge z _).marks y, onZone_zone]
    split
    · next e => rw [e]
    · rfl

theorem changeZone_bell (z : ZoneId) (f : Zone → Zone) (s : State) : (s.changeZone z f).bell = s.bell :=
  refreshZone_bell z _

theorem changeZone_dayQuiet (z y : ZoneId) (f : Zone → Zone) (s : State) :
    ((s.changeZone z f).zone y).dayQuiet = if y = z then (f (s.zone z)).dayQuiet else (s.zone y).dayQuiet := by
  unfold State.changeZone
  rw [refreshZone_dayQuiet, onZone_zone, apply_ite Zone.dayQuiet]

/-- The Bell Scheduler stands across a list whose every member's turn leaves it. -/
theorem each_bell {α : Type} {f : α → State → State} (h : ∀ x t, (f x t).bell = t.bell) (xs : List α) (s : State) :
    (s.each xs f).bell = s.bell :=
  each_induct (fun a b => b.bell = a.bell) (fun _ => rfl) (fun h k => k.trans h) f h xs s

theorem takeDayQuiet_bell (m : ZoneSet) (s : State) : (s.takeDayQuiet m).bell = s.bell :=
  each_bell (fun _ _ => changeZone_bell _ _ _) _ s

theorem handDayQuiet_bell (s : State) : s.handDayQuiet.bell = s.bell := takeDayQuiet_bell s.dayQuietSet s

/-- The zones dealt with so far have the mark that the set gives them, the others the one they had. -/
theorem eachDayQuiet_dayQuiet (m : ZoneSet) (z : ZoneId) (zs : List ZoneId) : ∀ s : State,
    ((s.each zs fun z => State.changeZone z fun r => { r with dayQuiet := Mask.has m z.val }).zone z).dayQuiet =
      if z ∈ zs then Mask.has m z.val else (s.zone z).dayQuiet := by
  induction zs with
  | nil => intro s; rfl
  | cons y zs ih =>
    intro s
    rw [each_cons, ih, changeZone_dayQuiet]
    by_cases h : z = y
    · subst h; simp
    · simp [h]

/-- The day-quiet set received is what the marks then show (R58). -/
theorem takeDayQuiet_dayQuiet (m : ZoneSet) (s : State) (z : ZoneId) :
    ((s.takeDayQuiet m).zone z).dayQuiet = Mask.has m z.val :=
  (eachDayQuiet_dayQuiet m z (allOf 64) s).trans (if_pos (List.mem_finRange z))

/-- The day-quiet set handed is that of the state after it (R22). -/
theorem handDayQuiet_dayQuiet (s : State) (z : ZoneId) :
    (s.handDayQuiet.zone z).dayQuiet = Mask.has s.handDayQuiet.dayQuietSet z.val := by
  have h := Calm.handDayQuiet s
  have same : s.handDayQuiet.dayQuietSet = s.dayQuietSet := by simp only [State.dayQuietSet, h.cal, h.groups]
  rw [same]
  exact takeDayQuiet_dayQuiet _ s z

/-! ### A group's quiet set, and its program -/

/-- Of the Bell Scheduler only the group's set changes (R44). -/
theorem setGroupQuiet_bell (g : SchedId) (m : ZoneSet) (s : State) :
    (s.setGroupQuiet g m).bell = (s.onGroup g fun r => { r with quiet := m }).bell :=
  each_bell (fun _ _ => changeZone_bell _ _ _) _ _

/-- Group g's record and its pending-resume places. -/
def Bell.place (r : Bell) (g : SchedId) : GroupWork × Tab (Option EntryRef) 6 := (r.groups.at g, r.resume.at g)

/-- A group's record and places after a program switch at civil second `now` (R49). -/
def switched (now : Nat) (prog : Option ProgId) (r : GroupWork) : GroupWork × Tab (Option EntryRef) 6 :=
  ({ r with program := prog, quiet := 0, watermark := max r.watermark now }, Tab.all 6 none)

/-- A program switch changes its own group's record and places, and no other's (R49). -/
theorem switchProgram_place (g h : SchedId) (prog : Option ProgId) (s : State) :
    (s.switchProgram g prog).bell.place h =
      if h = g then switched s.civil.sec prog (s.groupWork g) else s.bell.place h := by
  unfold State.switchProgram State.clearResume State.onGroup Bell.place switched State.groupWork
  simp only [onBell_bell, setGroupQuiet_bell, State.onGroup, tab_put_at]
  by_cases e : h = g <;> simp [e]

/-- Group g is handed a selection for civil date d as a program switch: it works on d, on another program (R29, R36). -/
def State.switchesTo (s : State) (g : SchedId) (d : Nat) (prog : Option ProgId) : Prop :=
  (s.groupWork g).working = true ∧ (s.groupWork g).date = some d ∧ (s.groupWork g).program ≠ prog

theorem takeSelection_of_switchesTo {g : SchedId} {d : Nat} {prog : Option ProgId} {s : State}
    (h : s.switchesTo g d prog) : s.takeSelection g d prog = s.switchProgram g prog := by
  obtain ⟨works, date, other⟩ := h
  simp [State.takeSelection, works, date, other]

theorem takeSelection_of_not_switchesTo {g : SchedId} {d : Nat} {prog : Option ProgId} {s : State}
    (h : ¬ s.switchesTo g d prog) : s.takeSelection g d prog = s := by
  unfold State.takeSelection
  dsimp only
  split
  · next e =>
    simp only [Bool.and_eq_true, beq_iff_eq, bne_iff_ne] at e
    exact absurd ⟨e.1.1, e.1.2, e.2⟩ h
  · rfl

/-- A selection handed to group g leaves the record and places of every other group. -/
theorem takeSelection_place_of_ne {g h : SchedId} (ne : h ≠ g) (d : Nat) (prog : Option ProgId) (s : State) :
    (s.takeSelection g d prog).bell.place h = s.bell.place h := by
  by_cases e : s.switchesTo g d prog
  · rw [takeSelection_of_switchesTo e, switchProgram_place, if_neg ne]
  · rw [takeSelection_of_not_switchesTo e]

/-- What a hand-over makes of a group's record and places depends on them and on the civil second alone. -/
theorem takeSelection_place_congr {g : SchedId} {s t : State} (place : t.bell.place g = s.bell.place g)
    (sec : t.civil.sec = s.civil.sec) (d : Nat) (prog : Option ProgId) :
    (t.takeSelection g d prog).bell.place g = (s.takeSelection g d prog).bell.place g := by
  have work : t.groupWork g = s.groupWork g := congrArg Prod.fst place
  by_cases k : s.switchesTo g d prog
  · have k' : t.switchesTo g d prog := by unfold State.switchesTo at k ⊢; rwa [work]
    rw [takeSelection_of_switchesTo k, takeSelection_of_switchesTo k', switchProgram_place, switchProgram_place,
      if_pos rfl, if_pos rfl, sec, work]
  · have k' : ¬ t.switchesTo g d prog := by unfold State.switchesTo at k ⊢; rwa [work]
    rw [takeSelection_of_not_switchesTo k, takeSelection_of_not_switchesTo k', place]

/-- Selections for date d handed to groups that do not hold h leave its record and places. -/
theorem eachSelection_place_of_notMem (d : Nat) (sel : SchedId → Option ProgId) {h : SchedId} (gs : List SchedId) :
    h ∉ gs → ∀ s : State, (s.each gs fun g => State.takeSelection g d (sel g)).bell.place h = s.bell.place h := by
  induction gs with
  | nil => intro _ s; rfl
  | cons g gs ih =>
    intro out s
    simp only [List.mem_cons, not_or] at out
    obtain ⟨ne, out⟩ := out
    rw [each_cons, ih out, takeSelection_place_of_ne ne]

/-- Selections for date d handed to groups, each once: each one's record and places are what its own hand-over makes of
those it had (R36, R49). -/
theorem eachSelection_place (d : Nat) (sel : SchedId → Option ProgId) {h : SchedId} (gs : List SchedId) :
    gs.Nodup → h ∈ gs → ∀ s : State, (s.each gs fun g => State.takeSelection g d (sel g)).bell.place h =
      (s.takeSelection h d (sel h)).bell.place h := by
  induction gs with
  | nil => intro _ inside; cases inside
  | cons g gs ih =>
    intro once inside s
    obtain ⟨out, once⟩ := List.nodup_cons.mp once
    rw [each_cons]
    by_cases e : h = g
    · subst e
      exact eachSelection_place_of_notMem d sel gs out _
    · have rest := (List.mem_cons.mp inside).resolve_left e
      have sec : (s.takeSelection g d (sel g)).civil = s.civil := by
        simp only [State.civil, State.civilSec, (Calm.takeSelection g d (sel g) s).time]
      rw [ih once rest, takeSelection_place_congr (takeSelection_place_of_ne e d (sel g) s) (by rw [sec])]

/-! ### Today's type found again, with what is handed (R29, R30) -/

theorem Talk.switchProgram (g : SchedId) (prog : Option ProgId) (s : State) : Talk s (s.switchProgram g prog) := by
  unfold State.switchProgram
  exact (((Talk.onGroup g _ s).trans (Talk.setGroupQuiet g 0 _)).trans (Talk.clearResume g _)).trans (Talk.onGroup g _ _)

theorem Talk.takeSelection (g : SchedId) (d : Nat) (prog : Option ProgId) (s : State) :
    Talk s (s.takeSelection g d prog) := by
  unfold State.takeSelection
  dsimp only
  split
  · exact Talk.switchProgram g prog s
  · exact Talk.refl s

theorem Talk.handSelections (s : State) : Talk s s.handSelections := by
  unfold State.handSelections
  split
  · exact Talk.each _ _ (Talk.refl s) fun g t => Talk.takeSelection g _ _ t
  · exact Talk.refl s

theorem Talk.handDayQuiet (s : State) : Talk s s.handDayQuiet :=
  Talk.each _ _ (Talk.refl s) fun z _ => Talk.changeZone z _ fun _ => ⟨rfl, rfl, rfl, rfl⟩

/-- All but the Calendar Unit's own type: sessions, zones and bells. -/
theorem Talk.calCalendarInstalled (s : State) : Talk (s.onCal Calendar.findType) s.calCalendarInstalled :=
  (Talk.handSelections _).trans (Talk.handDayQuiet _)

/-- Each group's record and places are what the hand-over of its selection for today makes of them (R23, R36). -/
theorem calCalendarInstalled_place {s : State} {d : Nat} (today : s.cal.today = some d) (g : SchedId) :
    s.calCalendarInstalled.bell.place g =
      (s.takeSelection g d (s.cal.findType.programFor g d)).bell.place g := by
  have handed : (s.onCal Calendar.findType).handSelections =
      (s.onCal Calendar.findType).each (allOf 8) fun g =>
        State.takeSelection g d (s.cal.findType.programFor g d) := by
    unfold State.handSelections
    simp only [onCal_cal, Calendar.findType, today]
  have bell : s.calCalendarInstalled.bell = (s.onCal Calendar.findType).handSelections.bell := handDayQuiet_bell _
  have each := eachSelection_place d (s.cal.findType.programFor · d) (allOf 8) (List.nodup_finRange 8) (List.mem_finRange g)
  rw [bell, handed, each]
  exact takeSelection_place_congr (s := s) (t := s.onCal Calendar.findType) rfl rfl d _

/-! ### Bells, transitions and whole events leave the day-quiet marks (R58)

Each lemma carries the relation on over one operation, so that a chain of them reads as the operations' own chain. -/

/-- From s to t the day-quiet mark of every zone stands. -/
def DayQuietStands (s t : State) : Prop := ∀ z, (t.zone z).dayQuiet = (s.zone z).dayQuiet

theorem Voice.dayQuietStands {s t : State} (h : Voice s t) : DayQuietStands s t := fun z => by rw [h.marks z]

namespace DayQuietStands

theorem refl (s : State) : DayQuietStands s s := fun _ => rfl

theorem trans {a b c : State} (h : DayQuietStands a b) (k : DayQuietStands b c) : DayQuietStands a c :=
  fun z => (k z).trans (h z)

section
variable {r s t : State} (h : DayQuietStands r s)
include h

theorem voice (k : Voice s t) : DayQuietStands r t := h.trans k.dayQuietStands

theorem onBell (f : Bell → Bell) : DayQuietStands r (s.onBell f) := h
theorem onDrill (f : DrillCtl → DrillCtl) : DayQuietStands r (s.onDrill f) := h
theorem onWork (f : Work → Work) : DayQuietStands r (s.onWork f) := h
theorem onView (f : Tab BState 6 → Tab BState 6) :
    DayQuietStands r (s.onRouter fun q => { q with view := f q.view }) := h

theorem each {α : Type} {f : α → State → State} (xs : List α) (k : ∀ x t, DayQuietStands r t → DayQuietStands r (f x t)) :
    DayQuietStands r (s.each xs f) :=
  each_induct (fun a b => DayQuietStands r a → DayQuietStands r b) (fun _ => id) (fun h k x => k (h x)) f k xs s h

theorem report (x : Report) : DayQuietStands r (s.report x) := h.voice (Fewer.report x s).voice

theorem setGroupQuiet (g : SchedId) (m : ZoneSet) : DayQuietStands r (s.setGroupQuiet g m) :=
  each (h.onBell _) _ fun z t k y => by
    rw [State.takeSchedQuiet, changeZone_dayQuiet, ← k y]
    split
    · next e => rw [e]
    · rfl

theorem fireSound (g : SchedId) (ref : EntryRef) (e : Entry) (late : Nat) (only : Option BuildingId) :
    DayQuietStands r (s.fireSound g ref e late only) := by
  unfold State.fireSound
  dsimp only
  split
  · exact h.report _
  · have sounded : DayQuietStands r
        (s.sound g ref e (s.firingZones g e only) (s.suppressedZones (s.firingZones g e only))).1 := by
      unfold State.sound
      dsimp only
      split
      · exact h
      · have made := h.voice (Voice.createSession
          (sessionAskOf g ref e (s.firingZones g e only &&& ~~~s.suppressedZones (s.firingZones g e only))
            (s.suppressedZones (s.firingZones g e only))) s)
        split <;> rename_i hx <;> rw [hx] at made <;> exact made
    split
    · exact (sounded.onBell _).report _
    · exact sounded.report _

theorem fireQuiet (g : SchedId) (ref : EntryRef) (e : Entry) (late : Nat) :
    DayQuietStands r (s.fireQuiet g ref e late) := by
  unfold State.fireQuiet
  dsimp only
  split
  · exact h.report _
  · exact (h.setGroupQuiet g _).report _

theorem fire (g : SchedId) (ref : EntryRef) (e : Entry) (late : Nat) (only : Option BuildingId) :
    DayQuietStands r (s.fire g ref e late only) := by
  unfold State.fire
  split
  · exact h.fireSound g ref e late only
  · exact h.fireSound g ref e late only
  · exact h.fireQuiet g ref e late
  · exact h.fireQuiet g ref e late

theorem resumeRing (b : BuildingId) (g : SchedId) : DayQuietStands r (s.resumeRing b g) := by
  unfold State.resumeRing
  split
  · exact h
  · split
    · dsimp only
      split
      · exact (h.onBell _).fire g _ _ _ _
      · exact h.onBell _
    · exact h

theorem announce (b : BuildingId) (st : BState) : DayQuietStands r (s.announce b st) := by
  have viewed : DayQuietStands r (s.takeBuildingState b st) :=
    each (h.onView (·.put b st)) _ fun z t k => k.voice (Fewer.rejudge z t).voice
  unfold State.announce State.bellBuildingState
  dsimp only
  split
  · exact each (viewed.onBell _) _ fun g t k => k.resumeRing b g
  · exact viewed.onBell _

theorem closeStandDown (b : BuildingId) : DayQuietStands r (s.closeStandDown b) := by
  unfold State.closeStandDown State.closeRecord
  dsimp only
  split
  · exact h.onDrill _
  · split
    · exact ((h.onDrill _).onDrill _).onDrill _
    · exact (((h.onDrill _).onDrill _).report _).onDrill _

theorem endStandDown (b : BuildingId) : DayQuietStands r (s.endStandDown b) := by
  unfold State.endStandDown
  split
  · unfold State.transitionCore
    dsimp only
    refine voice (onDrill (voice ?_ (Voice.writeBuildingMirror b _)) _) (Voice.askSignal b _)
    refine report (announce ?_ b _) _
    exact (((h.voice (Voice.endSignal b s)).onDrill _).onDrill _).closeStandDown b
  · exact h

end

theorem drainStandDowns {r : State} (k : Nat) : ∀ {s : State}, DayQuietStands r s → DayQuietStands r (s.drainStandDowns k) := by
  induction k with
  | zero => exact fun h => h
  | succ k ih =>
    intro s h
    unfold State.drainStandDowns
    split
    · exact h
    · exact ih ((h.onWork _).endStandDown _)

theorem settleSignals {r : State} (k : Nat) : ∀ {s : State}, DayQuietStands r s → DayQuietStands r (s.settleSignals k) := by
  induction k with
  | zero => exact fun h => h
  | succ k ih =>
    intro s h
    unfold State.settleSignals
    dsimp only
    split
    · refine ih (each ((h.drainStandDowns 12).onWork _) _ fun b t k => ?_)
      unfold State.askAgain
      split
      · exact k.voice (Voice.askSignal b t)
      · exact k
    · exact h.drainStandDowns 12

end DayQuietStands

/-- What is left of an event leaves every day-quiet mark. -/
theorem whole_dayQuiet (s : State) (z : ZoneId) : (s.whole.zone z).dayQuiet = (s.zone z).dayQuiet :=
  (((DayQuietStands.refl s).settleSignals 24).voice (Fewer.noteSelections _).voice) z

/-! ### The override list, by date (R21, R27, R28) -/

/-- The date set has its new record, and every other date the one it had (R27). -/
theorem find_setOverride (d : Nat) (y : Fin 16) (e : Nat) (os : List DayOverride) :
    (setOverride d y os).find? (fun o => o.day == e) =
      if e = d then some ⟨d, y⟩ else os.find? fun o => o.day == e := by
  induction os with
  | nil =>
    by_cases h : e = d
    · simp [setOverride, h]
    · simp [setOverride, h, Ne.symm h]
  | cons o os ih =>
    unfold setOverride
    by_cases h : e = d
    · subst h
      by_cases first : o.day = e
      · simp [first]
      · by_cases before : e < o.day
        · simp [first, before]
        · simp [first, before, ih]
    · by_cases first : o.day = d
      · simp [first, h, Ne.symm h]
      · by_cases before : d < o.day
        · simp [first, before, h, Ne.symm h]
        · simp only [first, before, if_false, List.find?_cons, ih, h]

/-- Where the records of one date are left out, every other date has the one it had (R28). -/
theorem find_clear {d e : Nat} (h : e ≠ d) (os : List DayOverride) :
    (os.filter fun o => o.day != d).find? (fun o => o.day == e) = os.find? fun o => o.day == e := by
  rw [List.find?_filter]
  congr 1
  funext o
  by_cases k : o.day = e
  · simp [k, h]
  · simp [k]

/-- A date's type depends on the list by the date's own record alone (R21). -/
theorem typeOf_overrides_congr {c : Calendar} {os : List DayOverride} {e : Nat}
    (h : os.find? (fun o => o.day == e) = c.overrides.find? fun o => o.day == e) :
    Calendar.typeOf { c with overrides := os } e = c.typeOf e := by
  unfold Calendar.typeOf
  dsimp only
  rw [h]

theorem typeOf_setOverride_self (c : Calendar) (d : Nat) (y : Fin 16) :
    Calendar.typeOf { c with overrides := setOverride d y c.overrides } d = y := by
  unfold Calendar.typeOf
  dsimp only
  rw [find_setOverride, if_pos rfl]

theorem typeOf_setOverride_of_ne (c : Calendar) {d e : Nat} (h : e ≠ d) (y : Fin 16) :
    Calendar.typeOf { c with overrides := setOverride d y c.overrides } e = c.typeOf e :=
  typeOf_overrides_congr ((find_setOverride d y e c.overrides).trans (if_neg h))

theorem typeOf_clear_of_ne (c : Calendar) {d e : Nat} (h : e ≠ d) :
    Calendar.typeOf { c with overrides := c.overrides.filter fun o => o.day != d } e = c.typeOf e :=
  typeOf_overrides_congr (find_clear h c.overrides)

/-! ### What a list changed for one date comes to (R29) -/

/-- Day d is today, and its type is another than the one held. -/
def Calendar.retypes (c : Calendar) (d : Nat) : Bool := decide (c.today = some d) && c.todayType != some (c.typeOf d)

/-- The answer to a DAY_OVERRIDE carried out on date d (R28). -/
def overrideAnswer (c : Calendar) (d what : Nat) (changed : Bool) : Answer :=
  ⟨.ok, 0, leBytes 1 c.overrides.length ++ leBytes 1 (c.typeOf d).val ++ [BitVec.ofNat 8 what] ++ [if changed then 1 else 0]⟩

/-- The state once the list has changed for day d: today's type is found again, with all that is handed then, if another
type than the one held is found (R29). -/
def State.overridden (d : Nat) (s : State) : State := if s.cal.retypes d then s.calCalendarInstalled else s

theorem overrideDone_eq (d what : Nat) (s : State) :
    s.overrideDone d what = (s.overridden d, overrideAnswer (s.overridden d).cal d what (s.cal.retypes d)) := by
  unfold State.overrideDone State.overridden
  change (if s.cal.retypes d = true then _ else _) = _
  split
  · next changed => simp [changed, State.calCalendarInstalled, overrideAnswer, u8, bitNum, leBytes]
  · next stands => simp [stands, overrideAnswer, u8, bitNum, leBytes]

/-- Of the Calendar Unit only today's type follows. -/
theorem overridden_cal (d : Nat) (s : State) : (s.overridden d).cal = { s.cal with
    todayType := if s.cal.today = some d then some (s.cal.typeOf d) else s.cal.todayType } := by
  unfold State.overridden
  by_cases h : s.cal.retypes d = true
  · have today : s.cal.today = some d := by
      simp only [Calendar.retypes, Bool.and_eq_true, decide_eq_true_eq] at h
      exact h.1
    rw [if_pos h, (Talk.calCalendarInstalled s).cal, onCal_cal, if_pos today]
    simp only [Calendar.findType, today, Option.map_some]
  · rw [if_neg h]
    by_cases today : s.cal.today = some d
    · have same : s.cal.todayType = some (s.cal.typeOf d) := by simpa [Calendar.retypes, today] using h
      rw [if_pos today, ← same]
    · rw [if_neg today]

/-- Besides the Calendar Unit, sessions, zones and bells alone. -/
theorem Talk.overridden (d : Nat) (s : State) : Talk (s.onCal fun _ => (s.overridden d).cal) (s.overridden d) := by
  unfold State.overridden
  split
  · have h := Talk.calCalendarInstalled s
    have same : s.onCal Calendar.findType = s.onCal fun _ => s.calCalendarInstalled.cal := by
      unfold State.onCal
      rw [h.cal]
      rfl
    rwa [← same]
  · exact Talk.refl s

/-- Where the type changed the marks show the day-quiet set of the new one; where it did not, they stand (R22, R29). -/
theorem overridden_dayQuiet (d : Nat) (s : State) (z : ZoneId) : ((s.overridden d).zone z).dayQuiet =
    if s.cal.retypes d then Mask.has (s.overridden d).dayQuietSet z.val else (s.zone z).dayQuiet := by
  unfold State.overridden
  split
  · exact handDayQuiet_dayQuiet _ z
  · rfl

/-- Where the type changed each group is handed its selection for the date; where it did not, all stand (R29). -/
theorem overridden_place (d : Nat) (s : State) (g : SchedId) : (s.overridden d).bell.place g =
    (if s.cal.retypes d then s.takeSelection g d (s.cal.programFor g d) else s).bell.place g := by
  unfold State.overridden
  split
  · next h =>
    simp only [Calendar.retypes, Bool.and_eq_true, decide_eq_true_eq] at h
    exact calCalendarInstalled_place h.1 g
  · rfl

/-! ### The request (R26) -/

/-- A DAY_OVERRIDE as the Calendar Unit is handed it from its cell. -/
theorem dayOverride_route (i : CellId) (tag year : Word) (action y month day : Byte) (s : State) :
    s.route i .dayOverride ⟨ReqKind.dayOverride.num, tag, fit paramBytes (dayOverrideParams action y year month day)⟩ =
      answered (s.takeDayOverride action.toNat y.toNat year.toNat month.toNat day.toNat) := by
  have word : (BitVec.ofNat 8 year.toNat).toNat + 256 * (BitVec.ofNat 8 (year.toNat / 256)).toNat = year.toNat := by
    simp only [BitVec.toNat_ofNat]
    omega
  show answered (s.takeDayOverride action.toNat y.toNat
    ((BitVec.ofNat 8 year.toNat).toNat + 256 * (BitVec.ofNat 8 (year.toNat / 256)).toNat) month.toNat day.toNat) = _
  rw [word]

/-- What a DAY_OVERRIDE posted in a free cell comes to. -/
theorem dayOverride_taken {i : CellId} {s : State} (h : s.takes i) (tag year : Word) (action y month day : Byte)
    {u : State} {a : Answer}
    (judged : (s.posted i .dayOverride tag (dayOverrideParams action y year month day)).takeDayOverride action.toNat
      y.toNat year.toNat month.toNat day.toNat = (u, a)) :
    s.postAndTake i .dayOverride tag (dayOverrideParams action y year month day) =
      (if a.code.done then u.whole else u).complete i ReqKind.dayOverride.num tag a := by
  rw [postAndTake_route i _ tag _ s h, dayOverride_route, judged]
  simp [answered, ReqKind.sounds]

/-! ### What only the Request Handler, common memory and the retained block can differ in -/

namespace HostSide

section
variable {s t : State} (h : HostSide s t)
include h

theorem time : t.time = s.time := by rw [h]
theorem cal : t.cal = s.cal := by rw [h]
theorem bell : t.bell = s.bell := by rw [h]
theorem router : t.router = s.router := by rw [h]
theorem line : t.line = s.line := by rw [h]
theorem scan : t.scan = s.scan := by rw [h]
theorem pins : t.pins = s.pins := by rw [h]
theorem pending : t.pending = s.pending := by rw [h]
theorem power : t.power = { s.power with retained := t.power.retained } := congrArg State.power h
theorem zone (z : ZoneId) : t.zone z = s.zone z := by rw [h]; rfl
theorem building (b : BuildingId) : t.building b = s.building b := by rw [h]; rfl
theorem civil : t.civil = s.civil := by rw [h]; rfl

end

/-- A cell's answer is the Request Handler's and common memory's alone (R175). -/
theorem complete_keep (i : CellId) (n : Nat) (tag : Word) (a : Answer) (s : State) :
    HostSide s (s.complete i n tag a).keep := by
  unfold HostSide
  rw [keep_eq]
  rfl

theorem posted (i : CellId) (k : ReqKind) (tag : Word) (params : List Byte) (s : State) :
    HostSide s (s.posted i k tag params) := rfl

theorem trans {a b c : State} (h : HostSide a b) (k : HostSide b c) : HostSide a c := by
  unfold HostSide at h k ⊢
  rw [k, h]

end HostSide

/-! ### A DAY_OVERRIDE carried out (R27 to R29) -/

/-- A group that works today on another program than its selection is switched. -/
theorem overridden_place_of_switchesTo {d : Nat} {s : State} (changed : s.cal.retypes d = true) {g : SchedId}
    (h : s.switchesTo g d (s.cal.programFor g d)) :
    (s.overridden d).bell.place g = switched s.civil.sec (s.cal.programFor g d) (s.groupWork g) := by
  rw [overridden_place, if_pos changed, takeSelection_of_switchesTo h, switchProgram_place, if_pos rfl]

theorem overridden_place_of_not_switchesTo {d : Nat} {s : State} {g : SchedId}
    (h : ¬ (s.cal.retypes d = true ∧ s.switchesTo g d (s.cal.programFor g d))) :
    (s.overridden d).bell.place g = s.bell.place g := by
  rw [overridden_place]
  split
  · next changed => rw [takeSelection_of_not_switchesTo fun k => h ⟨changed, k⟩]
  · rfl

/-- The state with another override list. -/
def State.listed (os : List DayOverride) (s : State) : State := s.onCal fun c => { c with overrides := os }

/-- What a DAY_OVERRIDE carried out on day d by instruction c does from s to t, as the obligation says it; `what` says
whether the record is new, replaced or cleared. -/
def DayOverrideActs (i : CellId) (tag : Word) (d : Nat) (c : Instr) (s t : State) (what : Byte) : Prop :=
  let changed : Bool := decide (s.cal.today = some d) && s.cal.todayType != some (t.cal.typeOf d)
  let selection (g : SchedId) : Option ProgId := (s.cal.groups.at g).progMap.at (t.cal.typeOf d)
  exec c s = .next t ∧ (∀ e, e ≠ d → t.cal.typeOf e = s.cal.typeOf e) ∧ t.cal.today = s.cal.today ∧
  t.cal.todayType = (if s.cal.today = some d then some (t.cal.typeOf d) else s.cal.todayType) ∧
  Answered i .dayOverride tag
    ⟨.ok, 0, leBytes 1 t.cal.overrides.length ++ leBytes 1 (t.cal.typeOf d).val ++ [what] ++
      [if changed then 1 else 0]⟩ s t ∧
  (∀ z, (t.zone z).dayQuiet = if changed then Mask.has t.dayQuietSet z.val else (s.zone z).dayQuiet) ∧
  (s.noneDown → ∀ g : SchedId,
    let switches : Prop := changed = true ∧ (s.groupWork g).working = true ∧ (s.groupWork g).date = some d ∧
      (s.groupWork g).program ≠ selection g
    (switches → t.groupWork g = { s.groupWork g with
        program := selection g, quiet := 0, watermark := max (s.groupWork g).watermark s.civil.sec } ∧
      ∀ b : BuildingId, (t.bell.resume.at g).at b = none) ∧
    (¬ switches → t.groupWork g = s.groupWork g ∧ t.bell.resume.at g = s.bell.resume.at g)) ∧
  t.time = s.time ∧ t.line = s.line ∧ t.scan = s.scan ∧ t.pins = s.pins ∧ t.pending = s.pending ∧
  t.power = { s.power with retained := t.power.retained } ∧
  ∀ b, (s.building b).state ≠ .standingDown → (t.building b).core = (s.building b).core

/-- The calendar with another override list, today's type following for day d. -/
def Calendar.relisted (c : Calendar) (os : List DayOverride) (d : Nat) : Calendar :=
  { c with
    overrides := os
    todayType := if c.today = some d then some (Calendar.typeOf { c with overrides := os } d) else c.todayType }

/-- From s, in p the request is posted; in t the list is os, day d is dealt with, and the cell is answered. -/
structure Relists (d : Nat) (os : List DayOverride) (s p t : State) : Prop where
  posted : HostSide s p
  ended : HostSide ((p.listed os).overridden d).whole t

namespace Relists

section
variable {d : Nat} {os : List DayOverride} {s p t : State} (h : Relists d os s p t)
include h

theorem cal : t.cal = s.cal.relisted os d := by
  have dealt := overridden_cal d (p.listed os)
  simp only [State.listed, onCal_cal, h.posted.cal] at dealt
  exact h.ended.cal.trans ((Calm.whole _).cal.trans dealt)

theorem typeOf (e : Nat) : t.cal.typeOf e = Calendar.typeOf { s.cal with overrides := os } e := by
  rw [h.cal]
  rfl

theorem retypes : (p.listed os).cal.retypes d =
    (decide (s.cal.today = some d) && s.cal.todayType != some (t.cal.typeOf d)) := by
  rw [h.typeOf]
  simp only [State.listed, onCal_cal, h.posted.cal]
  rfl

theorem programFor (g : SchedId) :
    (p.listed os).cal.programFor g d = (s.cal.groups.at g).progMap.at (t.cal.typeOf d) := by
  rw [h.typeOf]
  simp only [State.listed, onCal_cal, h.posted.cal]
  rfl

omit h in
/-- Sessions, zones, bells and stand-downs, once the Calendar Unit is dealt with. -/
theorem calm : Calm (p.onCal fun _ => ((p.listed os).overridden d).cal) ((p.listed os).overridden d).whole :=
  (Talk.overridden d (p.listed os)).toCalm.trans (Calm.whole _)

omit h in
theorem pages : Pages p ((p.listed os).overridden d).whole :=
  (Pages.of_eq (s := p) (t := p.onCal fun _ => ((p.listed os).overridden d).cal) rfl rfl).trans calm.toPages

theorem time : t.time = s.time := h.ended.time.trans (calm.time.trans h.posted.time)
theorem line : t.line = s.line := h.ended.line.trans (calm.line.trans h.posted.line)
theorem scan : t.scan = s.scan := h.ended.scan.trans (calm.scan.trans h.posted.scan)
theorem pins : t.pins = s.pins := h.ended.pins.trans (calm.pins.trans h.posted.pins)
theorem pending : t.pending = s.pending := h.ended.pending.trans (calm.pending.trans h.posted.pending)

theorem power : t.power = { s.power with retained := t.power.retained } := by
  have whole : ((p.listed os).overridden d).whole.power = p.power := calm.power
  rw [h.ended.power, whole, h.posted.power]

/-- Until the event's end every building keeps its record, its signal apart. -/
theorem core_overridden (b : BuildingId) :
    (((p.listed os).overridden d).building b).core = (s.building b).core := by
  rw [← h.posted.building b]
  exact (Talk.overridden d (p.listed os)).core b

theorem core (b : BuildingId) (up : (s.building b).state ≠ .standingDown) :
    (t.building b).core = (s.building b).core := by
  have dealt := h.core_overridden b
  rw [h.ended.building, (Downs.whole _).cores b (by rwa [core_state dealt]), dealt]

/-- The marks show the day-quiet set of the new type, or stand (R22). -/
theorem dayQuiet (z : ZoneId) : (t.zone z).dayQuiet =
    if (p.listed os).cal.retypes d then Mask.has t.dayQuietSet z.val else (s.zone z).dayQuiet := by
  have set : t.dayQuietSet = ((p.listed os).overridden d).dayQuietSet := by
    have whole := Calm.whole ((p.listed os).overridden d)
    simp only [State.dayQuietSet, h.ended.cal, h.ended.router, whole.cal, whole.groups]
  rw [h.ended.zone, whole_dayQuiet, overridden_dayQuiet, set, ← h.posted.zone z]
  rfl

/-- Where no building stands down, nothing after the hand-over reaches the bells (R108). -/
theorem bell (still : s.noneDown) : t.bell = ((p.listed os).overridden d).bell := by
  have stays : ((p.listed os).overridden d).noneDown := fun b => by
    rw [core_state (h.core_overridden b)]
    exact still b
  obtain ⟨-, bell, -⟩ := (Downs.whole _).still stays
  exact h.ended.bell.trans bell

/-- What becomes of group g's record and places (R29, R49). -/
theorem group (still : s.noneDown) (g : SchedId) :
    let switches : Prop := (p.listed os).cal.retypes d = true ∧ (s.groupWork g).working = true ∧
      (s.groupWork g).date = some d ∧ (s.groupWork g).program ≠ (p.listed os).cal.programFor g d
    (switches → t.bell.place g = switched s.civil.sec ((p.listed os).cal.programFor g d) (s.groupWork g)) ∧
    (¬ switches → t.bell.place g = s.bell.place g) := by
  have work : (p.listed os).groupWork g = s.groupWork g := congrArg (fun r : Bell => r.groups.at g) h.posted.bell
  have now : (p.listed os).civil = s.civil := h.posted.civil
  have places : (p.listed os).bell.place g = s.bell.place g := congrArg (Bell.place · g) h.posted.bell
  rw [h.bell still]
  constructor
  · rintro ⟨changed, switches⟩
    rw [overridden_place_of_switchesTo changed (by unfold State.switchesTo; rwa [work]), now, work]
  · intro stays
    rw [overridden_place_of_not_switchesTo (by unfold State.switchesTo; rwa [work]), places]

/-- What the obligation says of a request carried out. -/
theorem acts {i : CellId} {tag : Word} {c : Instr} {what : Byte} (ran : exec c s = .next t)
    (others : ∀ e, e ≠ d → Calendar.typeOf { s.cal with overrides := os } e = s.cal.typeOf e)
    (answered : Answered i .dayOverride tag
      ⟨.ok, 0, leBytes 1 t.cal.overrides.length ++ leBytes 1 (t.cal.typeOf d).val ++ [what] ++
        [if (p.listed os).cal.retypes d then 1 else 0]⟩ s t) : DayOverrideActs i tag d c s t what := by
  unfold DayOverrideActs
  dsimp only
  rw [← h.retypes]
  refine ⟨ran, fun e ne => (h.typeOf e).trans (others e ne), ?today, ?type, answered, h.dayQuiet, ?groups,
    h.time, h.line, h.scan, h.pins, h.pending, h.power, h.core⟩
  case today => rw [h.cal]; rfl
  case type => rw [h.typeOf, h.cal]; rfl
  case groups =>
    intro still g
    obtain ⟨switch, stay⟩ := h.group still g
    rw [← h.programFor g]
    constructor
    · intro switches
      have place := switch switches
      refine ⟨congrArg Prod.fst place, fun b => ?_⟩
      have row : t.bell.resume.at g = Tab.all 6 none := congrArg Prod.snd place
      rw [row, tab_all_at]
    · intro stays
      have place := stay stays
      exact ⟨congrArg Prod.fst place, congrArg Prod.snd place⟩

end

end Relists

/-! ### DAY_OVERRIDE judged in order (R26) -/

section
variable {s : State} {action dayType year month day : Nat}

theorem takeDayOverride_of_unset (unset : s.time.quality = .unset) :
    s.takeDayOverride action dayType year month day = (s, .plain .notReady) := by
  simp [State.takeDayOverride, State.timeSet, unset]

section
variable (ready : s.time.quality ≠ .unset) (known : action ≤ 1)
include ready known

theorem takeDayOverride_of_outOfYears (out : ¬ (2000 ≤ year ∧ year ≤ 2099)) :
    s.takeDayOverride action dayType year month day = (s, .plain .range) := by
  have outside : year < 2000 ∨ 2099 < year := by omega
  simp [State.takeDayOverride, State.timeSet, ready, Nat.not_lt.mpr known, outside]

variable (inYears : 2000 ≤ year ∧ year ≤ 2099)
include inYears

theorem takeDayOverride_of_noDate (noDate : Date.valid ⟨year, month, day⟩ = false) :
    s.takeDayOverride action dayType year month day = (s, .plain .badParam) := by
  have inside : ¬ (year < 2000 ∨ 2099 < year) := by omega
  simp [State.takeDayOverride, State.timeSet, ready, Nat.not_lt.mpr known, inside, noDate]

variable (date : Date.valid ⟨year, month, day⟩ = true)
include date

omit known in
theorem takeDayOverride_of_noType (noType : 16 ≤ dayType) :
    s.takeDayOverride 0 dayType year month day = (s, .plain .badParam) := by
  have inside : ¬ (year < 2000 ∨ 2099 < year) := by omega
  have outside : asFin 16 dayType = none := dif_neg (Nat.not_lt.mpr noType)
  simp [State.takeDayOverride, State.timeSet, ready, inside, date, outside]

/-- With a date and a day type the date is judged against today, and the list is turned to. -/
theorem takeDayOverride_of_type (type : dayType < 16) :
    s.takeDayOverride action dayType year month day =
      if dayNumber ⟨year, month, day⟩ < s.cal.today.getD 0 then (s, .plain .range)
      else if action = 0 then s.setDayOverride (dayNumber ⟨year, month, day⟩) ⟨dayType, type⟩
      else s.clearDayOverride (dayNumber ⟨year, month, day⟩) := by
  have inside : ¬ (year < 2000 ∨ 2099 < year) := by omega
  have read : asFin 16 dayType = some ⟨dayType, type⟩ := dif_pos type
  simp [State.takeDayOverride, State.timeSet, ready, Nat.not_lt.mpr known, inside, date, read]

end

end

/-- A record is put in where one stands for the date or there is room (R27). -/
theorem setDayOverride_of_room {d : Nat} {s : State} (room : s.cal.holds d = true ∨ s.cal.overrides.length < 16)
    (y : Fin 16) : s.setDayOverride d y =
      (s.listed (setOverride d y s.cal.overrides)).overrideDone d (if s.cal.holds d then 1 else 0) := by
  unfold State.setDayOverride
  dsimp only
  by_cases held : s.cal.holds d = true
  · rw [if_pos held, if_pos held]
    rfl
  · rw [if_neg held, if_neg held, if_pos (room.resolve_left held)]
    rfl

theorem setDayOverride_of_full {d : Nat} {s : State} (held : s.cal.holds d = false)
    (full : 16 ≤ s.cal.overrides.length) (y : Fin 16) : s.setDayOverride d y = (s, .plain .tableFull) := by
  simp [State.setDayOverride, held, Nat.not_lt.mpr full]

theorem clearDayOverride_of_held {d : Nat} {s : State} (held : s.cal.holds d = true) :
    s.clearDayOverride d = (s.listed (s.cal.overrides.filter fun o => o.day != d)).overrideDone d 2 :=
  if_pos held

theorem clearDayOverride_of_not_held {d : Nat} {s : State} (held : s.cal.holds d = false) :
    s.clearDayOverride d = (s, .plain .noSession) := by
  simp [State.clearDayOverride, held]

/-! ### The request taken at a cell (R173 to R175) -/

/-- Instruction c is refused with a code: the cell is answered, and nothing else happens. -/
def DayOverrideRefused (i : CellId) (tag : Word) (c : Instr) (code : Code) (s : State) : Prop :=
  ∃ t, exec c s = .next t ∧ Answered i .dayOverride tag ⟨code, 0, []⟩ s t ∧ HostSide s t

section
variable {i : CellId} {tag year : Word} {month day action y : Byte} {s : State} (free : s.takes i) {c : Instr}
  (posts : exec c s = (s.postAndTake i .dayOverride tag (dayOverrideParams action y year month day)).goesOn)
include free posts

theorem dayOverride_refused {code : Code} (fails : code.done = false)
    (judged : (s.posted i .dayOverride tag (dayOverrideParams action y year month day)).takeDayOverride action.toNat
      y.toNat year.toNat month.toNat day.toNat =
        (s.posted i .dayOverride tag (dayOverrideParams action y year month day), .plain code)) :
    DayOverrideRefused i tag c code s := by
  have plain : (Answer.plain code).code.done = false := fails
  rw [dayOverride_taken free tag year action y month day judged, plain] at posts
  exact ⟨_, posts, answered_take (Pages.refl _),
    (HostSide.posted i .dayOverride tag _ s).trans (HostSide.complete_keep i _ tag _ _)⟩

/-- A request carried out on day d, with the list it leaves. -/
theorem dayOverride_acts {d what : Nat} {os : List DayOverride}
    (judged : (s.posted i .dayOverride tag (dayOverrideParams action y year month day)).takeDayOverride action.toNat
      y.toNat year.toNat month.toNat day.toNat =
        ((s.posted i .dayOverride tag (dayOverrideParams action y year month day)).listed os).overrideDone d what)
    (others : ∀ e, e ≠ d → Calendar.typeOf { s.cal with overrides := os } e = s.cal.typeOf e) :
    ∃ t, DayOverrideActs i tag d c s t (BitVec.ofNat 8 what) ∧ t.cal = s.cal.relisted os d := by
  have request := HostSide.posted i .dayOverride tag (dayOverrideParams action y year month day) s
  have replied (a : Answer) {u : State}
      (h : Pages (s.posted i .dayOverride tag (dayOverrideParams action y year month day)) u) :
      Answered i .dayOverride tag a s (u.complete i ReqKind.dayOverride.num tag a).keep := answered_take h
  rw [overrideDone_eq] at judged
  rw [dayOverride_taken free tag year action y month day judged] at posts
  generalize s.posted i .dayOverride tag (dayOverrideParams action y year month day) = p at posts request replied
  let a := overrideAnswer ((p.listed os).overridden d).cal d what ((p.listed os).cal.retypes d)
  let t := (((p.listed os).overridden d).whole.complete i ReqKind.dayOverride.num tag a).keep
  have h : Relists d os s p t := ⟨request, HostSide.complete_keep i _ tag a _⟩
  have cal : ((p.listed os).overridden d).cal = t.cal := (h.ended.cal.trans (Calm.whole _).cal).symm
  have answered : Answered i .dayOverride tag a s t := replied a Relists.pages
  refine ⟨t, h.acts posts others ?_, h.cal⟩
  rw [← cal]
  exact answered

end

/-! ### DAY_OVERRIDE, its refusals and its two actions -/

theorem exec_dayOverrideSet (i : CellId) (tag year : Word) (month day y : Byte) (s : State) :
    exec (.dayOverrideSet i tag year month day y) s =
      (s.postAndTake i .dayOverride tag (dayOverrideParams 0 y year month day)).goesOn := rfl

theorem exec_dayOverrideClear (i : CellId) (tag year : Word) (month day : Byte) (s : State) :
    exec (.dayOverrideClear i tag year month day) s =
      (s.postAndTake i .dayOverride tag (dayOverrideParams 1 0 year month day)).goesOn := rfl

section
variable {i : CellId} {tag year : Word} {month day : Byte} {s : State} (free : s.takes i)
include free

/-- CLEAR and every SET are refused alike where the judgement of the two actions is one. -/
theorem dayOverride_bothRefused {code : Code} (fails : code.done = false) {types : Byte → Prop} (zero : types 0)
    (judged : ∀ (action y : Byte) (u : State), action.toNat ≤ 1 → types y → HostSide s u →
      u.takeDayOverride action.toNat y.toNat year.toNat month.toNat day.toNat = (u, .plain code)) :
    DayOverrideRefused i tag (.dayOverrideClear i tag year month day) code s ∧
      ∀ y, types y → DayOverrideRefused i tag (.dayOverrideSet i tag year month day y) code s :=
  ⟨dayOverride_refused free (exec_dayOverrideClear i tag year month day s) fails
      (judged 1 0 _ (by decide) zero (HostSide.posted ..)),
    fun y type => dayOverride_refused free (exec_dayOverrideSet i tag year month day y s) fails
      (judged 0 y _ (by decide) type (HostSide.posted ..))⟩

theorem dayOverride_notReady (unset : s.time.quality = .unset) :
    DayOverrideRefused i tag (.dayOverrideClear i tag year month day) .notReady s ∧
      ∀ y, DayOverrideRefused i tag (.dayOverrideSet i tag year month day y) .notReady s := by
  obtain ⟨clear, set⟩ := dayOverride_bothRefused (tag := tag) (year := year) (month := month) (day := day) free
    (code := .notReady) rfl (types := fun _ => True) trivial
    fun action y u _ _ h => takeDayOverride_of_unset (by rwa [h.time])
  exact ⟨clear, fun y => set y trivial⟩

section
variable (ready : s.time.quality ≠ .unset)
include ready

theorem dayOverride_outOfYears (out : ¬ (2000 ≤ year.toNat ∧ year.toNat ≤ 2099)) :
    DayOverrideRefused i tag (.dayOverrideClear i tag year month day) .range s ∧
      ∀ y, DayOverrideRefused i tag (.dayOverrideSet i tag year month day y) .range s := by
  obtain ⟨clear, set⟩ := dayOverride_bothRefused (tag := tag) (year := year) (month := month) (day := day) free
    (code := .range) rfl (types := fun _ => True) trivial
    fun action y u known _ h => takeDayOverride_of_outOfYears (by rwa [h.time]) known out
  exact ⟨clear, fun y => set y trivial⟩

variable (inYears : 2000 ≤ year.toNat ∧ year.toNat ≤ 2099)
include inYears

theorem dayOverride_noDate (noDate : Date.valid ⟨year.toNat, month.toNat, day.toNat⟩ = false) :
    DayOverrideRefused i tag (.dayOverrideClear i tag year month day) .badParam s ∧
      ∀ y, DayOverrideRefused i tag (.dayOverrideSet i tag year month day y) .badParam s := by
  obtain ⟨clear, set⟩ := dayOverride_bothRefused (tag := tag) (year := year) (month := month) (day := day) free
    (code := .badParam) rfl (types := fun _ => True) trivial
    fun action y u known _ h => takeDayOverride_of_noDate (by rwa [h.time]) known inYears noDate
  exact ⟨clear, fun y => set y trivial⟩

variable (date : Date.valid ⟨year.toNat, month.toNat, day.toNat⟩ = true)
include date

theorem dayOverride_noType (y : Byte) (noType : 16 ≤ y.toNat) :
    DayOverrideRefused i tag (.dayOverrideSet i tag year month day y) .badParam s :=
  dayOverride_refused free (exec_dayOverrideSet i tag year month day y s) rfl
    (takeDayOverride_of_noType ready inYears date noType)

variable {d : Nat} (dated : dayNumber ⟨year.toNat, month.toNat, day.toNat⟩ = d)
include dated

theorem dayOverride_past {today : Nat} (is : s.cal.today = some today) (past : d < today) :
    DayOverrideRefused i tag (.dayOverrideClear i tag year month day) .range s ∧
      ∀ y : Byte, y.toNat < 16 → DayOverrideRefused i tag (.dayOverrideSet i tag year month day y) .range s :=
  dayOverride_bothRefused free rfl (types := fun y => y.toNat < 16) (by decide) fun action y u known type h => by
    rw [takeDayOverride_of_type (by rwa [h.time]) known inYears date type, h.cal, is, dated]
    exact if_pos past

section
variable (due : ∀ today, s.cal.today = some today → today ≤ d)
include due

omit free in
/-- A date that is not past is turned to the list, by either action. -/
theorem dayOverride_judged {u : State} (h : HostSide s u) {action : Byte} (known : action.toNat ≤ 1) {y : Byte}
    (type : y.toNat < 16) : u.takeDayOverride action.toNat y.toNat year.toNat month.toNat day.toNat =
      if action.toNat = 0 then u.setDayOverride d ⟨y.toNat, type⟩ else u.clearDayOverride d := by
  rw [takeDayOverride_of_type (by rwa [h.time]) known inYears date type, h.cal, dated]
  refine if_neg (Nat.not_lt.mpr ?_)
  cases today : s.cal.today with
  | none => exact Nat.zero_le _
  | some _ => exact due _ today

/-- SET with a record for the date, or room for one (R27). -/
theorem dayOverride_set (y : Byte) (type : y.toNat < 16) (room : s.cal.holds d = true ∨ s.cal.overrides.length < 16) :
    ∃ t, DayOverrideActs i tag d (.dayOverrideSet i tag year month day y) s t (if s.cal.holds d then 1 else 0) ∧
      t.cal.typeOf d = ⟨y.toNat, type⟩ := by
  have h := HostSide.posted i .dayOverride tag (dayOverrideParams 0 y year month day) s
  have judged := dayOverride_judged ready inYears date dated due h (action := 0) (by decide) type
  rw [if_pos (show (0 : Byte).toNat = 0 from rfl), setDayOverride_of_room (by rwa [h.cal]), h.cal] at judged
  obtain ⟨t, acts, cal⟩ := dayOverride_acts free (exec_dayOverrideSet i tag year month day y s) judged
    fun e ne => typeOf_setOverride_of_ne s.cal ne ⟨y.toNat, type⟩
  rw [apply_ite (BitVec.ofNat 8)] at acts
  refine ⟨t, acts, ?_⟩
  rw [cal]
  exact typeOf_setOverride_self s.cal _ ⟨y.toNat, type⟩

theorem dayOverride_full (y : Byte) (type : y.toNat < 16) (held : s.cal.holds d = false)
    (full : 16 ≤ s.cal.overrides.length) :
    DayOverrideRefused i tag (.dayOverrideSet i tag year month day y) .tableFull s := by
  have h := HostSide.posted i .dayOverride tag (dayOverrideParams 0 y year month day) s
  have judged := dayOverride_judged ready inYears date dated due h (action := 0) (by decide) type
  rw [if_pos (show (0 : Byte).toNat = 0 from rfl), setDayOverride_of_full (by rwa [h.cal]) (by rwa [h.cal])] at judged
  exact dayOverride_refused free (exec_dayOverrideSet i tag year month day y s) rfl judged

/-- CLEAR with a record for the date (R28). -/
theorem dayOverride_clear (held : s.cal.holds d = true) :
    ∃ t, DayOverrideActs i tag d (.dayOverrideClear i tag year month day) s t 2 ∧
      t.cal.overrides = s.cal.overrides.filter fun o => o.day != d := by
  have h := HostSide.posted i .dayOverride tag (dayOverrideParams 1 0 year month day) s
  have judged := dayOverride_judged ready inYears date dated due h (action := 1) (by decide) (y := 0) (by decide)
  rw [if_neg (show (1 : Byte).toNat ≠ 0 by decide), clearDayOverride_of_held (by rwa [h.cal]), h.cal] at judged
  obtain ⟨t, acts, cal⟩ := dayOverride_acts free (exec_dayOverrideClear i tag year month day s) judged
    fun e ne => typeOf_clear_of_ne s.cal ne
  refine ⟨t, acts, ?_⟩
  rw [cal]
  rfl

theorem dayOverride_noRecord (held : s.cal.holds d = false) :
    DayOverrideRefused i tag (.dayOverrideClear i tag year month day) .noSession s := by
  have h := HostSide.posted i .dayOverride tag (dayOverrideParams 1 0 year month day) s
  have judged := dayOverride_judged ready inYears date dated due h (action := 1) (by decide) (y := 0) (by decide)
  rw [if_neg (show (1 : Byte).toNat ≠ 0 by decide), clearDayOverride_of_not_held (by rwa [h.cal])] at judged
  exact dayOverride_refused free (exec_dayOverrideClear i tag year month day s) rfl judged

end
end
end

/-- Settles O19: each refusal in its order by what the judgement of the posted request comes to, and what is carried out
by what the new list makes of today's type (`Relists`), which the end of the event and the answer leave. -/
theorem dayOverridesSetAndCleared : Obligations.DayOverridesSetAndCleared := by
  unfold Obligations.DayOverridesSetAndCleared
  intro i tag year month day s free
  refine ⟨fun unset => dayOverride_notReady free unset, fun ready => ⟨fun out => dayOverride_outOfYears free ready out,
    fun inYears noDate => dayOverride_noDate free ready inYears noDate,
    fun ⟨inYears, date⟩ y noType => dayOverride_noType free ready inYears date y noType,
    fun ⟨inYears, date⟩ ⟨_, is, past⟩ => dayOverride_past free ready inYears date rfl is past,
    fun ⟨inYears, date⟩ due => ⟨fun y type => ⟨?set, ?full⟩, ?clear, ?noRecord⟩⟩⟩
  case set => exact dayOverride_set free ready inYears date rfl due y type
  case full => exact dayOverride_full free ready inYears date rfl due y type
  case clear => exact dayOverride_clear free ready inYears date rfl due
  case noRecord => exact dayOverride_noRecord free ready inYears date rfl due

end Sys2Proof.Machine
end

section
/-! PROOFS. The effective modes of the zones (O6). -/

namespace Sys2Proof.Machine

/-! ### O6: every command keeps the effective modes right -/

/-- A change that leaves the zone records leaves the modes right. -/
theorem modesRight_of_zones {s t : State} (same : t.router.zones = s.router.zones) (h : s.modesRight) :
    t.modesRight := fun z => by
  have zone : t.zone z = s.zone z := congrArg (Tab.at · z) same
  rw [zone]
  exact h z

theorem becomeRunning_modesRight {s : State} (h : s.modesRight) : s.becomeRunning.modesRight := by
  have header := (Steady.writeStartHeader s.power.validAtStart
    (s.onPower fun p => { p with part := .running })).modes (modesRight_of_zones rfl h)
  have kept := (Orderly.keep _).modes header
  exact (Steady.report _ _).modes (modesRight_of_zones rfl kept)

/-- The blocks' actions at RUNNING (R165) judge modes afresh wherever they move a mark. -/
theorem enterRunning_modesRight {s : State} (h : s.modesRight) : s.enterRunning.modesRight := by
  unfold State.enterRunning
  split
  · have running := becomeRunning_modesRight ((Orderly.examineHeld s).modes h)
    have blocks := (((((Steady.calRunning _).trans (Calm.sendFrame _).steady).trans (Calm.drillRunning _).steady).trans
      (Calm.bellRunning _).steady).trans (OnLines.lineRunning _).steady).modes running
    exact (Calm.whole _).modes ((Orderly.firstKeySample _).modes blocks)
  · exact h

theorem meetBoundary_zones (p : Pins) (s : State) : (s.meetBoundary p).router.zones = s.router.zones := by
  change (s.setPins p).samplePlayers.router.zones = _
  rw [samplePlayers_frame]
  rfl

theorem advanceTime_modesRight {s : State} (h : s.modesRight) : s.advanceTime.modesRight := by
  unfold State.advanceTime
  dsimp only
  split
  · split
    · exact (Orderly.setQuality _ _ _).modes (modesRight_of_zones rfl h)
    · exact modesRight_of_zones rfl h
  · exact modesRight_of_zones rfl h

theorem eighthEnd_modesRight (inp : BoundaryInput) {s : State} (h : s.modesRight) : (s.eighthEnd inp).modesRight := by
  unfold State.eighthEnd
  split
  · have due := (((Orderly.dueAll s).trans (Orderly.hostWrites inp.host _)).trans (Orderly.judgeFrame _)).modes h
    have advanced := advanceTime_modesRight (modesRight_of_zones (meetBoundary_zones inp.pins _) due)
    have second := (Orderly.secondAt inp.secondFirst _).modes advanced
    exact ((Restarts.boundaryWork inp _).trans (Restarts.askSweep inp.asks _)).modes second
  · exact h

theorem assertReset_modesRight {s : State} (h : s.modesRight) : s.assertReset.modesRight := by
  unfold State.assertReset
  split
  · exact modesRight_of_zones rfl h
  · exact h

theorem releaseReset_modesRight (p : Pins) {s : State} (h : s.modesRight) : (s.releaseReset p).modesRight := by
  unfold State.releaseReset
  split
  · exact (Begun.start _ p _).modes
  · exact h

/-- A meaning keeps the effective modes right (R59). -/
def KeepsModes (f : State → Result) : Prop := ∀ s t : State, s.modesRight → f s = .next t → t.modesRight

namespace KeepsModes

theorem next {f : State → State} (h : ∀ {s}, s.modesRight → (f s).modesRight) : KeepsModes fun s => .next (f s) :=
  fun s t right ran => by
    cases ran
    exact h right

theorem goesOn {f : State → State} (h : ∀ {s}, s.modesRight → (f s).modesRight) : KeepsModes fun s => (f s).goesOn :=
  next fun right => (Orderly.keep _).modes (h right)

/-- Every request command, whatever it asks for. -/
theorem request (i : CellId) (k : ReqKind) (tag : Word) (params : List Byte) :
    KeepsModes fun s => (s.postAndTake i k tag params).goesOn := goesOn (Restarts.postAndTake i k tag params _).modes

theorem served {f : ReqHandler → ReqHandler} :
    KeepsModes fun s => if s.busServed then .next (s.onRh f) else .next s := fun s t right ran => by
  dsimp only at ran
  split at ran <;> cases ran
  · exact modesRight_of_zones rfl right
  · exact right

theorem zeroCrossing : KeepsModes execZeroCrossing := fun s t right ran => by
  unfold execZeroCrossing at ran
  split at ran <;> cases ran
  · exact modesRight_of_zones rfl ((Orderly.between s).modes right)
  · exact right

theorem conversionEnd (reading : BitVec 10) : KeepsModes (execConversionEnd reading) := fun s t right ran => by
  have read := (Steady.endConversion reading.toNat _).modes ((Orderly.between s).modes right)
  unfold execConversionEnd at ran
  dsimp only at ran
  split at ran <;> cases ran
  · refine (Orderly.keep _).modes ?_
    split
    · exact (Calm.whole _).modes read
    · exact read
  · exact (Orderly.keep s).modes right

end KeepsModes

open KeepsModes in
/-- Each command's meaning keeps the effective modes right: the commands that start the part set them, and all others
change a zone's settings only together with its mode. -/
theorem exec_keepsModes (c : Instr) : KeepsModes (exec c) := by
  cases c with
  | eighthEnd inp => exact goesOn (eighthEnd_modesRight inp)
  | standardSecondBoundary => exact goesOn (Orderly.secondBoundary _).modes
  | lockedPeriodEnd => exact goesOn (Orderly.lockedEnd _).modes
  | holdoverPeriodEnd => exact goesOn (Orderly.holdoverEnd _).modes
  | telegramCharacter ch waits => exact goesOn ((Orderly.between _).trans (Orderly.receive ch waits _)).modes
  | telegramTimeout => exact goesOn (Orderly.telegramTimeout _).modes
  | timeSet | dayOverrideSet | dayOverrideClear | admissionSet | admissionRelease => exact request _ _ _ _
  | consoleSet | announce | cancelByNumber | cancelByTag => exact request _ _ _ _
  | hush | allClear | drillStart | drillAbort | logCopy => exact request _ _ _ _
  | lineSetDisplay | lineControlStop | lineControlRun | lineControlProbe | load | save => exact request _ _ _ _
  | overrideExpiry z => exact goesOn (Orderly.overrideExpiry z _).modes
  | deferLimitExpiry n => exact goesOn (Calm.deferExpire n _).modes
  | sessionDurationEnd n => exact goesOn (Calm.durationEnd n _).modes
  | crosspointFrame => exact goesOn (Calm.crosspoint _).modes
  | playingRise p => exact goesOn (Calm.playingRise p _).modes
  | playingFall p => exact goesOn (Calm.playingFall p _).modes
  | cueTimeout p => exact goesOn (Calm.cueTimeout p _).modes
  | pauseAbandon n => exact goesOn (Calm.pauseAbandon n _).modes
  | pttPress c => exact goesOn (Steady.pttPress c _).modes
  | pttRelease c => exact goesOn (Steady.pttRelease c _).modes
  | emergencyKeyChange c => exact goesOn (Steady.emergencyChange c _).modes
  | patternPhaseEnd g => exact goesOn (Calm.phaseEnd g _).modes
  | waitListGiveUp n => exact goesOn (Calm.giveUp n _).modes
  | fireContactClosure b => exact goesOn (Calm.contactCloses b _).modes
  | fireContactOpening b => exact goesOn (Calm.contactOpens b _).modes
  | musterPress b => exact goesOn (Calm.musterPresses b _).modes
  | musterRelease b => exact goesOn (Calm.musterReleases b _).modes
  | prealertTimerExpiry b => exact goesOn (Calm.prealertExpire b _).modes
  | limitTimerExpiry b => exact goesOn (Calm.limitExpire b _).modes
  | autoTimerExpiry b => exact goesOn (Calm.autoExpire b _).modes
  | logCopyWrite => exact goesOn (Orderly.logCopyWrite _).modes
  | impulseSelectRequest l => exact goesOn (OnLines.askSelect l _).steady.modes
  | impulseEnd l => exact goesOn (OnLines.impulseEnd l _).steady.modes
  | fastImpulse l => exact goesOn (OnLines.fastImpulse l _).steady.modes
  | probeTimerExpiry l => exact goesOn (OnLines.probeTimerExpire l _).steady.modes
  | codedFrameEnd l => exact goesOn ((Orderly.between _).trans (OnLines.frameEnd l _).steady.orderly).modes
  | conversionEnd reading => exact conversionEnd reading
  | zeroCrossing => exact zeroCrossing
  | frequencyWindowEnd => exact goesOn (Orderly.windowEnd _).modes
  | supplyApplied pins => exact goesOn fun _ => (Begun.start _ pins _).modes
  | resetAssert => exact goesOn fun right => assertReset_modesRight ((Orderly.between _).modes right)
  | resetRelease pins => exact goesOn fun right => releaseReset_modesRight pins ((Orderly.between _).modes right)
  | runningEntry => exact goesOn enterRunning_modesRight
  | loadCopyEnd => exact goesOn (Orderly.loadCopyEnd _).modes
  | saveNothingComplete => exact goesOn (Orderly.saveNothingDone _).modes
  | savePageWrite result => exact goesOn ((Orderly.between _).trans (Orderly.savePageWrite result _)).modes
  | sweepWrite value host asks =>
    exact goesOn (f := fun s => (s.between.hostWrites host).askSweep asks)
      (((Orderly.between _).trans (Orderly.hostWrites host _)).restarts.trans (Restarts.askSweep asks _)).modes
  | pageAgeClose => exact goesOn (Orderly.pageAgeClose _).modes
  | noticeWrite => exact served
  | noticeEnableWrite => exact served
  | registerWriteOther => exact next (f := id) id
  | supplyFailure torn => exact next (modesRight_of_zones rfl)

theorem step_modesRight {s t : State} (right : s.modesRight) (ran : step s = .next t) : t.modesRight := by
  unfold step at ran
  split at ran
  · cases ran
    exact right
  · next c rest _ => exact exec_keepsModes c (s.setPending rest) t right ran

/-! ### The rule of R59, case by case -/

namespace Zone

variable {r : Zone}

theorem compute_of_override {o : HostOverride} (h : r.override = some o) : r.compute = o.mode := by
  simp only [compute, h]

theorem compute_of_quiet (free : r.override = none) (quiet : (r.dayQuiet || r.schedQuiet) = true) :
    r.compute = if r.base = .off then .off else .emergencyOnly := by
  by_cases off : r.base = .off <;> simp [compute, free, quiet, off]

theorem compute_of_not_quiet (free : r.override = none) (quiet : (r.dayQuiet || r.schedQuiet) = false) :
    r.compute = r.base := by
  simp only [compute, free, quiet, Bool.false_and, Bool.false_eq_true, if_false]

end Zone

/-- Settles O6: every command keeps the modes right (`exec_keepsModes`), and a right mode is the rule's, case by
case. -/
theorem modesFollowOverridesAndQuiet : Obligations.ModesFollowOverridesAndQuiet := by
  unfold Obligations.ModesFollowOverridesAndQuiet
  intro s t right ran z
  rw [step_modesRight right ran z]
  refine ⟨fun o placed => Zone.compute_of_override placed, fun free quiet on => ?quiet, fun free quiet off => ?off,
    fun free loud => Zone.compute_of_not_quiet free loud⟩
  case quiet => rw [Zone.compute_of_quiet free quiet, if_neg on]
  case off => rw [Zone.compute_of_quiet free quiet, if_pos off]

end Sys2Proof.Machine
end

section
/-! PROOFS. Host overrides placed, released and expired (O23). -/

namespace Sys2Proof.Machine

/-! ### Overrides placed and removed: what becomes of each zone (R59, R61, R62) -/

/-- A zone record whose effective mode is computed again. -/
def Zone.refreshed (r : Zone) : Zone := { r with effective := r.compute }

/-- A zone record given an override, or relieved of its own, with the mode that follows (R59). -/
def Zone.overriddenBy (o : Option HostOverride) (r : Zone) : Zone := Zone.refreshed { r with override := o }

/-- The state with another table of zone records. -/
def State.withZones (v : Tab Zone 64) (s : State) : State := s.onRouter fun r => { r with zones := v }

/-- The state in which the zones listed are given an override, or relieved of theirs, and no session has met it yet. -/
def State.overriding (o : Option HostOverride) (zs : List ZoneId) (s : State) : State :=
  s.withZones (Tab.tabulate 64 fun z => if z ∈ zs then (s.zone z).overriddenBy o else s.zone z)

theorem overriding_zone (o : Option HostOverride) (zs : List ZoneId) (s : State) (z : ZoneId) :
    (s.overriding o zs).zone z = if z ∈ zs then (s.zone z).overriddenBy o else s.zone z := tab_tabulate_at _ z

theorem withZones_eq_self {v : Tab Zone 64} {s : State} (h : ∀ z, v.at z = s.zone z) : s.withZones v = s := by
  have same : v = s.router.zones := tab_ext h
  rw [same]
  rfl

theorem withZones_congr {u v : Tab Zone 64} (h : ∀ z, u.at z = v.at z) (s : State) : s.withZones u = s.withZones v := by
  rw [tab_ext h]

theorem overriding_nil (o : Option HostOverride) (s : State) : s.overriding o [] = s :=
  withZones_eq_self fun z => by simp

theorem onZone_overriding (o : Option HostOverride) (z : ZoneId) (zs : List ZoneId) (s : State) :
    (s.onZone z (Zone.overriddenBy o)).overriding o zs = s.overriding o (z :: zs) := by
  refine withZones_congr (fun y => ?_) s
  rw [tab_tabulate_at, tab_tabulate_at, onZone_zone]
  by_cases same : y = z
  · subst same
    simp only [if_true, List.mem_cons, true_or]
    split <;> rfl
  · simp only [same, if_false, List.mem_cons, false_or]

theorem onZone_onZone (z : ZoneId) (f g : Zone → Zone) (s : State) :
    (s.onZone z f).onZone z g = s.onZone z fun r => g (f r) := by
  refine withZones_congr (fun y => ?_) s
  change ((s.onZone z f).onZone z g).zone y = (s.onZone z fun r => g (f r)).zone y
  by_cases same : y = z <;> simp [onZone_zone, same]

/-- Modes stand right where zones differ in occupant and held slot alone. -/
theorem modesRight_of_marks {s t : State}
    (marks : ∀ z, t.zone z = { s.zone z with occupant := (t.zone z).occupant, held := (t.zone z).held })
    (h : s.modesRight) : t.modesRight := fun z => by
  rw [marks z]
  exact h z

/-- Sessions that end in the meantime take no part in what the overrides make of the zones. -/
theorem Fewer.overriding {s t : State} (h : Fewer s t) (o : Option HostOverride) (zs : List ZoneId) :
    Fewer (s.overriding o zs) (t.overriding o zs) := by
  have marks : ∀ z, (t.overriding o zs).zone z = { (s.overriding o zs).zone z with
      occupant := ((t.overriding o zs).zone z).occupant, held := ((t.overriding o zs).zone z).held } := fun z => by
    rw [overriding_zone, overriding_zone]
    split
    · rw [h.marks z]; rfl
    · exact h.marks z
  exact { h with
    marks := marks
    zones := fun z => by rw [marks z]; exact ⟨rfl, rfl, rfl, rfl⟩
    modes := modesRight_of_marks marks }

/-- Once a zone's mode is computed again, sessions end and move as the zone is re-judged, and nothing else (R65). -/
theorem Fewer.refreshZone (z : ZoneId) (s : State) : Fewer (s.onZone z Zone.refreshed) (s.refreshZone z) := by
  unfold State.refreshZone
  split
  · next same =>
    have stands : (s.zone z).refreshed = s.zone z := by rw [Zone.refreshed, same]
    have idle : s.onZone z Zone.refreshed = s := withZones_eq_self fun y => by
      rw [tab_put_at]
      split
      · next e => rw [e]; exact stands
      · rfl
    rw [idle]
    exact Fewer.refl s
  · exact Fewer.rejudge z _

theorem Fewer.overrideZone (o : Option HostOverride) (z : ZoneId) (sc : State × Nat) :
    Fewer (sc.1.onZone z (Zone.overriddenBy o)) (State.overrideZone o z sc).1 := by
  have turn := Fewer.refreshZone z (sc.1.onZone z fun r => { r with override := o })
  rwa [onZone_onZone] at turn

theorem Fewer.overrideFold (o : Option HostOverride) (zs : List ZoneId) : ∀ sc : State × Nat,
    Fewer (sc.1.overriding o zs) (zs.foldl (fun sc z => State.overrideZone o z sc) sc).1 := by
  induction zs with
  | nil =>
    intro sc
    rw [overriding_nil]
    exact Fewer.refl sc.1
  | cons z zs ih =>
    intro sc
    have turn := (Fewer.overrideZone o z sc).overriding o zs
    rw [onZone_overriding] at turn
    exact turn.trans (ih _)

/-- The zones in turn come to the zones all at once, but for the sessions that this ends and moves. -/
theorem Fewer.overrideZones (o : Option HostOverride) (zs : List ZoneId) (s : State) :
    Fewer (s.overriding o zs) (s.overrideZones o zs).1 := Fewer.overrideFold o zs (s, 0)

/-- A zone's mode after a turn is the one its own override gives it, and that of the others stands. -/
theorem overrideZone_effective (o : Option HostOverride) (z y : ZoneId) (sc : State × Nat) :
    ((State.overrideZone o z sc).1.zone y).effective =
      if y = z then ((sc.1.zone z).overriddenBy o).effective else (sc.1.zone y).effective := by
  rw [(Fewer.overrideZone o z sc).marks y, onZone_zone, apply_ite Zone.effective]

/-- The override, or its removal, gives zone z another effective mode than it has. -/
def State.wouldChange (s : State) (o : Option HostOverride) (z : ZoneId) : Bool :=
  (s.zone z).effective != ((s.zone z).overriddenBy o).effective

theorem overrideZone_count (o : Option HostOverride) (z : ZoneId) (sc : State × Nat) :
    (State.overrideZone o z sc).2 = if sc.1.wouldChange o z then sc.2 + 1 else sc.2 := by
  have after := overrideZone_effective o z z sc
  rw [if_pos rfl] at after
  unfold State.wouldChange
  rw [← after]
  rfl

/-- A turn of another zone leaves what the override would change of zone y. -/
theorem overrideZone_wouldChange_of_ne (o : Option HostOverride) {z y : ZoneId} (ne : y ≠ z) (sc : State × Nat) :
    (State.overrideZone o z sc).1.wouldChange o y = sc.1.wouldChange o y := by
  unfold State.wouldChange
  rw [(Fewer.overrideZone o z sc).marks y, onZone_zone, if_neg ne]
  rfl

/-- Each zone whose effective mode changes is counted, once (R61, R62). -/
theorem overrideFold_count (o : Option HostOverride) (zs : List ZoneId) : zs.Nodup → ∀ sc : State × Nat,
    (zs.foldl (fun sc z => State.overrideZone o z sc) sc).2 = sc.2 + (zs.filter (sc.1.wouldChange o)).length := by
  induction zs with
  | nil => intro _ sc; rfl
  | cons z zs ih =>
    intro once sc
    obtain ⟨out, once⟩ := List.nodup_cons.mp once
    have rest : zs.filter ((State.overrideZone o z sc).1.wouldChange o) = zs.filter (sc.1.wouldChange o) :=
      List.filter_congr fun y inside =>
        overrideZone_wouldChange_of_ne o (fun e => out (by rwa [← e])) sc
    rw [List.foldl_cons, ih once, rest, overrideZone_count, List.filter_cons]
    split
    · rw [List.length_cons]; omega
    · rfl

theorem overrideZones_count (o : Option HostOverride) {zs : List ZoneId} (once : zs.Nodup) (s : State) :
    (s.overrideZones o zs).2 = (zs.filter (s.wouldChange o)).length :=
  (overrideFold_count o zs once (s, 0)).trans (Nat.zero_add _)

theorem members_nodup {n : Nat} (m : BitVec n) : (Mask.members m).Nodup := (List.nodup_finRange n).filter _

theorem mem_members {n : Nat} {m : BitVec n} {i : Fin n} : i ∈ Mask.members m ↔ Mask.has m i.val = true := by
  simp [Mask.members, Mask.has]

/-- The modes are right once overrides are dealt with, where they were before. -/
theorem overriding_modesRight (o : Option HostOverride) (zs : List ZoneId) {s : State} (h : s.modesRight) :
    (s.overriding o zs).modesRight := fun z => by
  rw [overriding_zone]
  split
  · rfl
  · exact h z

/-! ### What the sessions' side and the Request Handler leave alone, carried on -/

/-- Of a zone record only the settings are the sessions' side's to keep. -/
theorem SoundSide.of_settings {s t : State} {v : Tab Zone 64} (h : SoundSide s t)
    (same : ∀ z, (v.at z).building = (s.zone z).building ∧ (v.at z).base = (s.zone z).base ∧
      (v.at z).override = (s.zone z).override ∧ (v.at z).fault = (s.zone z).fault) : SoundSide (s.withZones v) t :=
  { h with
    zones := fun z => by
      obtain ⟨building, base, placed, fault⟩ := same z
      change _ = (v.at z).building ∧ _ = (v.at z).base ∧ _ = (v.at z).override ∧ _ = (v.at z).fault
      rw [building, base, placed, fault]
      exact h.zones z }

theorem SoundSide.complete {s t : State} (h : SoundSide s t) (i : CellId) (n : Nat) (tag : Word) (a : Answer) :
    SoundSide s (t.complete i n tag a) := { h with }

theorem DrillSide.complete {s t : State} (h : DrillSide s t) (i : CellId) (n : Nat) (tag : Word) (a : Answer) :
    DrillSide s (t.complete i n tag a) := { h with }

/-! ### Overrides dealt with to the end of the event (R61 to R63) -/

/-- From s to t the zones listed are given an override, or relieved of theirs, and all that follows is dealt with. -/
structure Overrides (o : Option HostOverride) (zs : List ZoneId) (s t : State) : Prop where
  sound : SoundSide (s.overriding o zs) t
  drill : DrillSide s t
  modes : s.modesRight → t.modesRight

theorem overrideZones_whole (o : Option HostOverride) (zs : List ZoneId) (s : State) :
    Downs (s.overriding o zs) (s.overrideZones o zs).1.whole :=
  (Fewer.overrideZones o zs s).voice.downs.trans (Downs.whole _)

theorem overrideZones_pages (o : Option HostOverride) (zs : List ZoneId) (s : State) :
    Pages s (s.overrideZones o zs).1.whole :=
  (Pages.of_eq (s := s) (t := s.overriding o zs) rfl rfl).trans (overrideZones_whole o zs s).toPages

namespace Overrides

variable {o : Option HostOverride} {zs : List ZoneId} {s t : State}

theorem of_downs (h : Downs (s.overriding o zs) t) : Overrides o zs s t :=
  ⟨h.sounded.sound, { h.toDrillSide with }, fun right => h.modes (overriding_modesRight o zs right)⟩

theorem complete (h : Overrides o zs s t) (i : CellId) (n : Nat) (tag : Word) (a : Answer) :
    Overrides o zs s (t.complete i n tag a) :=
  ⟨h.sound.complete i n tag a, h.drill.complete i n tag a, fun right => modesRight_of_zones rfl (h.modes right)⟩

theorem keep (h : Overrides o zs s t) : Overrides o zs s t.keep :=
  ⟨h.sound.keep, h.drill.keep, fun right => (Orderly.keep t).modes (h.modes right)⟩

theorem of_posted {i : CellId} {k : ReqKind} {tag : Word} {params : List Byte}
    (h : Overrides o zs (s.posted i k tag params) t) : Overrides o zs s t :=
  ⟨{ h.sound with }, { h.drill with }, h.modes⟩

/-- The zones listed have the override, and no other zone's has changed. -/
theorem zone_override (h : Overrides o zs s t) (z : ZoneId) :
    (t.zone z).override = if z ∈ zs then o else (s.zone z).override := by
  obtain ⟨-, -, same, -⟩ := h.sound.zones z
  rw [same, overriding_zone, apply_ite Zone.override]
  rfl

/-- The settings of the zones that the obligation writes out are those that overrides leave. -/
theorem sound_of_settings (h : Overrides o zs s t) {v : Tab Zone 64}
    (same : ∀ z, v.at z = if z ∈ zs then { s.zone z with override := o } else s.zone z) :
    SoundSide (s.withZones v) t := by
  refine SoundSide.of_settings (s := s.overriding o zs) h.sound fun z => ?_
  rw [same, overriding_zone]
  split <;> exact ⟨rfl, rfl, rfl, rfl⟩

end Overrides

/-! ### ADMISSION_SET judged (R60) -/

theorem leValue_leBytes (n v : Nat) : leValue (leBytes n v) = v % 256 ^ n := by
  induction n generalizing v with
  | zero => simp [leBytes, leValue, Nat.mod_one]
  | succ n ih =>
    rw [leBytes, leValue, ih, BitVec.toNat_ofNat, Nat.pow_succ' (m := 256), Nat.mod_mul (x := v) (a := 256)]

theorem ofNat_leValue_maskBytes (m : ZoneSet) : BitVec.ofNat 64 (leValue (maskBytes m)) = m := by
  rw [maskBytes, leValue_leBytes, Nat.mod_eq_of_lt (show m.toNat < 256 ^ 8 from m.isLt), BitVec.ofNat_toNat,
    BitVec.setWidth_eq]

theorem leValue_wordBytes (w : Word) : leValue (wordBytes w) = w.toNat := by
  rw [wordBytes, leValue_leBytes, Nat.mod_eq_of_lt (show w.toNat < 256 ^ 2 from w.isLt)]

/-- An ADMISSION_SET as the Zone Router is handed it from its cell. -/
theorem admission_route (i : CellId) (tag minutes : Word) (target : TargetParam) (action : Byte) (s : State) :
    s.route i .admissionSet ⟨ReqKind.admissionSet.num, tag, fit paramBytes (admissionParams target action minutes)⟩ =
      answered (s.takeAdmission target.kind.toNat action.toNat minutes.toNat target.group.toNat target.mask) := by
  have word := leValue_wordBytes minutes
  have mask := ofNat_leValue_maskBytes target.mask
  have read : s.route i .admissionSet
      ⟨ReqKind.admissionSet.num, tag, fit paramBytes (admissionParams target action minutes)⟩ =
      answered (s.takeAdmission target.kind.toNat action.toNat (leValue (wordBytes minutes)) target.group.toNat
        (BitVec.ofNat 64 (leValue (maskBytes target.mask)))) := rfl
  rw [read, word, mask]

/-- What an ADMISSION_SET posted in a free cell comes to. -/
theorem admission_taken {i : CellId} {s : State} (h : s.takes i) (tag minutes : Word) (target : TargetParam)
    (action : Byte) {u : State} {a : Answer}
    (judged : (s.posted i .admissionSet tag (admissionParams target action minutes)).takeAdmission target.kind.toNat
      action.toNat minutes.toNat target.group.toNat target.mask = (u, a)) :
    s.postAndTake i .admissionSet tag (admissionParams target action minutes) =
      (if a.code.done then u.whole else u).complete i ReqKind.admissionSet.num tag a := by
  rw [postAndTake_route i _ tag _ s h, admission_route, judged]
  simp [answered, ReqKind.sounds]

section
variable {s : State} {kind action minutes group : Nat} {mask : ZoneSet}

theorem takeAdmission_of_noTarget (noTarget : targetOf kind group mask = none) :
    s.takeAdmission kind action minutes group mask = (s, .plain .badParam) := by
  simp only [State.takeAdmission, noTarget]

theorem takeAdmission_of_noAction (unknown : 4 < action) :
    s.takeAdmission kind action minutes group mask = (s, .plain .badParam) := by
  have noMode : modeOf action = none := by
    unfold modeOf
    split <;> first | omega | rfl
  have noRelease : action ≠ releaseCode := Nat.ne_of_gt unknown
  unfold State.takeAdmission
  split
  · rfl
  · rw [if_neg noRelease, noMode]

theorem takeAdmission_of_release {g : Target} (named : targetOf kind group mask = some g) :
    s.takeAdmission kind 4 minutes group mask = s.releaseOverrides (s.resolve g) := by
  simp only [State.takeAdmission, named, releaseCode, if_true]

theorem takeAdmission_of_mode {g : Target} {m : Mode} (named : targetOf kind group mask = some g)
    (mode : modeOf action = some m) : s.takeAdmission kind action minutes group mask =
      s.placeOverrides (s.resolve g) m (min minutes 1440) (decide (1440 < minutes)) := by
  have noRelease : action ≠ releaseCode := fun e => by rw [e] at mode; cases mode
  have clamped : clampTo 0 1440 minutes = (min minutes 1440, decide (1440 < minutes)) := by
    unfold clampTo
    rw [if_neg (Nat.not_lt_zero _)]
    split
    · next above => rw [Nat.min_eq_right (Nat.le_of_lt above), decide_eq_true above]
    · next fits => rw [Nat.min_eq_left (Nat.le_of_not_lt fits), decide_eq_false fits]
  simp only [State.takeAdmission, named, if_neg noRelease, mode, clamped]

end

/-! ### The request taken at a cell, and its answer (R173 to R175) -/

section
variable {i : CellId} {tag minutes : Word} {target : TargetParam} {action : Byte} {s : State} (free : s.takes i)
  {c : Instr}
  (posts : exec c s = (s.postAndTake i .admissionSet tag (admissionParams target action minutes)).goesOn)
include free posts

theorem admission_refused (judged : ∀ u : State, u.takeAdmission target.kind.toNat action.toNat minutes.toNat
    target.group.toNat target.mask = (u, .plain .badParam)) :
    ∃ t, exec c s = .next t ∧ Answered i .admissionSet tag ⟨.badParam, 0, []⟩ s t ∧ HostSide s t := by
  rw [admission_taken free tag minutes target action (judged _)] at posts
  exact ⟨_, posts, answered_take (Pages.refl _),
    (HostSide.posted i .admissionSet tag _ s).trans (HostSide.complete_keep i _ tag _ _)⟩

/-- A request that gives zones an override, or relieves them of theirs, with its answer. -/
theorem admission_acts {o : Option HostOverride} {zs : List ZoneId} {a : Answer} (done : a.code.done = true)
    (judged : (s.posted i .admissionSet tag (admissionParams target action minutes)).takeAdmission target.kind.toNat
      action.toNat minutes.toNat target.group.toNat target.mask =
        (((s.posted i .admissionSet tag (admissionParams target action minutes)).overrideZones o zs).1, a)) :
    ∃ t, exec c s = .next t ∧ Overrides o zs s t ∧ Answered i .admissionSet tag a s t := by
  rw [admission_taken free tag minutes target action judged, if_pos done] at posts
  have dealt := Overrides.of_downs
    (overrideZones_whole o zs (s.posted i .admissionSet tag (admissionParams target action minutes)))
  exact ⟨_, posts, (dealt.complete i _ tag a).keep.of_posted, answered_take (overrideZones_pages o zs _)⟩

end

/-- The answer to an ADMISSION_SET with a mode, as 12.3 lays it out (R61). -/
theorem admissionResult_placed (count changed expiry : Nat) : admissionResult count changed 0 expiry =
    leBytes 1 count ++ leBytes 1 changed ++ [0, 0, 0, 0, 0, 0] ++ leBytes 5 expiry := rfl

/-- The answer to an ADMISSION_SET with RELEASE, as 12.3 lays it out (R62). -/
theorem admissionResult_released (count changed removed : Nat) : admissionResult count changed removed 0 =
    leBytes 1 count ++ leBytes 1 changed ++ leBytes 1 removed ++ [0, 0, 0, 0, 0, 0, 0, 0, 0, 0] := rfl

theorem okOr_done (clamped : Bool) : (okOr clamped).done = true := by cases clamped <;> rfl

theorem okOr_decide (p : Prop) [Decidable p] : okOr (decide p) = if p then .clamped else .ok := by
  by_cases h : p <;> simp [okOr, h]

/-- The two parts of ADMISSION_SET's work with a mode. -/
theorem placeOverrides_eq (zones : ZoneSet) (m : Mode) (n : Nat) (clamped : Bool) (s : State) :
    s.placeOverrides zones m n clamped =
      ((s.overrideZones (some ⟨m, overrideExpiryAt s.now n⟩) (Mask.members zones)).1,
        ⟨okOr clamped, 0, admissionResult (Mask.count zones)
          ((Mask.members zones).filter fun z => (s.zone z).effective != m).length 0
          ((overrideExpiryAt s.now n).getD 0)⟩) := by
  have count := overrideZones_count (some ⟨m, overrideExpiryAt s.now n⟩) (members_nodup zones) s
  have change : s.wouldChange (some ⟨m, overrideExpiryAt s.now n⟩) = fun z => (s.zone z).effective != m := rfl
  rw [change] at count
  unfold State.placeOverrides
  dsimp only
  rw [count]

/-- The zones of a set that have an override. -/
def State.overrideHolders (s : State) (zones : ZoneSet) : List ZoneId :=
  (Mask.members zones).filter fun z => (s.zone z).override.isSome

/-- The two parts of ADMISSION_SET's work with RELEASE. -/
theorem releaseOverrides_eq (zones : ZoneSet) (s : State) :
    s.releaseOverrides zones =
      ((s.overrideZones none (s.overrideHolders zones)).1,
        ⟨.ok, 0, admissionResult (Mask.count zones)
          ((s.overrideHolders zones).filter fun z =>
            Zone.compute { s.zone z with override := none } != (s.zone z).effective).length
          (s.overrideHolders zones).length 0⟩) := by
  have count := overrideZones_count none ((members_nodup zones).filter fun z => (s.zone z).override.isSome) s
  have change : s.wouldChange none = fun z => Zone.compute { s.zone z with override := none } != (s.zone z).effective :=
    funext fun z => bne_comm
  rw [change] at count
  unfold State.releaseOverrides
  dsimp only
  rw [count]
  rfl

/-- Relieving the zones that have an override comes to relieving them all. -/
theorem released_settings (s : State) (zones : ZoneSet) (z : ZoneId) :
    (if Mask.has zones z.val then { s.zone z with override := none } else s.zone z) =
      if z ∈ s.overrideHolders zones then { s.zone z with override := none } else s.zone z := by
  have held : z ∈ s.overrideHolders zones ↔ Mask.has zones z.val = true ∧ (s.zone z).override.isSome = true := by
    rw [State.overrideHolders, List.mem_filter, mem_members]
  by_cases inside : Mask.has zones z.val = true
  · by_cases placed : (s.zone z).override.isSome = true
    · rw [if_pos inside, if_pos (held.mpr ⟨inside, placed⟩)]
    · have free : (s.zone z).override = none := by simpa using placed
      rw [if_pos inside, if_neg fun h => placed (held.mp h).2, ← free]
  · rw [if_neg inside, if_neg fun h => inside (held.mp h).1]

/-! ### OVERRIDE_EXPIRY (R63) -/

theorem overrideDue_iff {s : State} {z : ZoneId} : s.overrideDue z = true ↔
    s.up = true ∧ ∃ m e, (s.zone z).override = some ⟨m, some e⟩ ∧ e ≤ s.time.elapsed := by
  unfold State.overrideDue
  rw [Bool.and_eq_true]
  refine and_congr_right fun _ => ?_
  split
  · next m e placed =>
    refine ⟨fun come => ⟨m, e, placed, of_decide_eq_true come⟩, ?_⟩
    rintro ⟨m', e', placed', come⟩
    rw [placed] at placed'
    cases placed'
    exact decide_eq_true come
  · next other => exact ⟨fun come => absurd come Bool.false_ne_true, fun ⟨m, e, placed, _⟩ => (other m e placed).elim⟩

theorem overrideExpiry_of_due {s : State} {z : ZoneId} (due : s.overrideDue z = true) :
    s.overrideExpiry z = (s.overrideZones none [z]).1.whole := by
  unfold State.overrideExpiry State.expireOverride
  rw [if_pos due, if_pos due]
  rfl

theorem overrideExpiry_of_not_due {s : State} {z : ZoneId} (early : ¬ s.overrideDue z = true) :
    s.overrideExpiry z = s := if_neg early

/-- An override's end is its zone's alone, with what follows. -/
theorem overrideExpiry_sounded (z : ZoneId) (s : State) :
    Sounded (s.onZone z fun r => { r with override := none }) (s.overrideZones none [z]).1.whole.keep := by
  have dealt := (Overrides.of_downs (overrideZones_whole none [z] s)).keep
  refine ⟨dealt.sound_of_settings fun y => ?_, { (overrideZones_pages none [z] s).keep with }, { dealt.drill with }⟩
  rw [tab_put_at]
  by_cases same : y = z
  · rw [if_pos same, if_pos (List.mem_singleton.mpr same), same]
    rfl
  · rw [if_neg same, if_neg fun h => same (List.mem_singleton.mp h)]
    rfl

/-! ### ADMISSION_SET with a mode, and with RELEASE -/

theorem admissionSet_placed {i : CellId} {tag minutes : Word} {target : TargetParam} {action : Byte} {s : State}
    (free : s.takes i) {g : Target} {m : Mode} (right : s.modesRight)
    (named : targetOf target.kind.toNat target.group.toNat target.mask = some g) (mode : modeOf action.toNat = some m) :
    ∃ t, exec (.admissionSet i tag target action minutes) s = .next t ∧
      Overrides (some ⟨m, overrideExpiryAt s.now (min minutes.toNat 1440)⟩) (Mask.members (s.resolve g)) s t ∧
      (∀ z : ZoneId, Mask.has (s.resolve g) z.val = true → (t.zone z).effective = m) ∧
      Answered i .admissionSet tag ⟨if 1440 < minutes.toNat then .clamped else .ok, 0,
        admissionResult (Mask.count (s.resolve g))
          ((Mask.members (s.resolve g)).filter fun z => (s.zone z).effective != m).length 0
          ((overrideExpiryAt s.now (min minutes.toNat 1440)).getD 0)⟩ s t := by
  have judged := (takeAdmission_of_mode (s := s.posted i .admissionSet tag (admissionParams target action minutes))
    (minutes := minutes.toNat) named mode).trans (placeOverrides_eq _ _ _ _ _)
  obtain ⟨t, ran, dealt, answered⟩ :=
    admission_acts (c := .admissionSet i tag target action minutes) free rfl (okOr_done _) judged
  rw [okOr_decide] at answered
  refine ⟨t, ran, dealt, fun z inside => ?_, answered⟩
  have placed := (dealt.zone_override z).trans (if_pos (mem_members.mpr inside))
  rw [dealt.modes right z, Zone.compute_of_override placed]

theorem admission_released {i : CellId} {tag minutes : Word} {target : TargetParam} {s : State} {c : Instr}
    (free : s.takes i) {g : Target} (named : targetOf target.kind.toNat target.group.toNat target.mask = some g)
    (posts : exec c s = (s.postAndTake i .admissionSet tag (admissionParams target 4 minutes)).goesOn) :
    ∃ t, exec c s = .next t ∧ Overrides none (s.overrideHolders (s.resolve g)) s t ∧
      Answered i .admissionSet tag ⟨.ok, 0, admissionResult (Mask.count (s.resolve g))
        ((s.overrideHolders (s.resolve g)).filter fun z =>
          Zone.compute { s.zone z with override := none } != (s.zone z).effective).length
        (s.overrideHolders (s.resolve g)).length 0⟩ s t := by
  have judged := (takeAdmission_of_release (s := s.posted i .admissionSet tag (admissionParams target 4 minutes))
    (minutes := minutes.toNat) named).trans (releaseOverrides_eq _ _)
  exact admission_acts free posts (Eq.refl true) judged

/-- Settles O23: a request is judged (`takeAdmission_of_mode`, `takeAdmission_of_release` and the refusals), and the
zones dealt with in turn come to the zones all at once, but for sessions that end (`Fewer.overrideZones`). -/
theorem hostOverridesPlacedReleasedAndExpired : Obligations.HostOverridesPlacedReleasedAndExpired := by
  unfold Obligations.HostOverridesPlacedReleasedAndExpired
  refine ⟨fun i tag target action minutes s free => ⟨fun g m right named mode => ?placed, fun wrong => ?refused⟩,
    fun i tag target c s g free right which named => ?released, fun i tag target s free noTarget => ?noTarget,
    fun z s => ⟨fun m e up right placed due => ?expired, fun early => ?early⟩⟩
  case placed =>
    obtain ⟨t, ran, dealt, modes, answered⟩ :=
      admissionSet_placed (tag := tag) (minutes := minutes) free right named mode
    rw [admissionResult_placed] at answered
    refine ⟨t, ran, dealt.sound_of_settings fun z => ?_, dealt.drill, modes, answered⟩
    rw [tab_tabulate_at]
    exact ite_congr (propext mem_members.symm) (fun _ => rfl) fun _ => rfl
  case refused =>
    refine admission_refused free rfl fun u => ?_
    rcases wrong with noTarget | noAction
    · exact takeAdmission_of_noTarget noTarget
    · exact takeAdmission_of_noAction noAction
  case released =>
    have posts : ∃ minutes,
        exec c s = (s.postAndTake i .admissionSet tag (admissionParams target 4 minutes)).goesOn := by
      rcases which with rfl | ⟨minutes, rfl⟩
      · exact ⟨0, rfl⟩
      · exact ⟨minutes, rfl⟩
    obtain ⟨minutes, posts⟩ := posts
    obtain ⟨t, ran, dealt, answered⟩ := admission_released free named posts
    rw [admissionResult_released] at answered
    exact ⟨t, ran, dealt.sound_of_settings fun z => by rw [tab_tabulate_at]; exact released_settings s _ z, dealt.drill,
      dealt.modes right, answered⟩
  case noTarget => exact admission_refused free rfl fun u => takeAdmission_of_noTarget noTarget
  case expired =>
    have ran := congrArg State.goesOn (overrideExpiry_of_due (overrideDue_iff.mpr ⟨up, m, e, placed, due⟩))
    have dealt := (Overrides.of_downs (overrideZones_whole none [z] s)).keep
    refine ⟨_, ran, dealt.modes right, ?_, overrideExpiry_sounded z s⟩
    rw [dealt.zone_override, if_pos (List.mem_singleton_self z)]
  case early =>
    refine congrArg State.goesOn (overrideExpiry_of_not_due fun due => ?_)
    obtain ⟨up, m, e, placed, come⟩ := overrideDue_iff.mp due
    rcases early with down | later
    · exact absurd up (by rw [down]; decide)
    · exact absurd come (Nat.not_le.mpr (later m e placed))

end Sys2Proof.Machine
end
